-- ==== Sys2Proof/Word.lean ====
section
/-! DEFINITION. The words of the machine (R2, R133): bytes, register widths and the plain numbers of the module. -/
namespace Sys2Proof

/-- One byte of any memory. -/
abbrev Byte := BitVec 8
/-- A slot word, a b register, an ma register (Table 6.3). -/
abbrev Word32 := BitVec 32
/-- An s or a register and a control and status register (Table 6.3, R185). -/
abbrev Word := BitVec 64
/-- A vector register (Table 6.3, R188). -/
abbrev VReg := BitVec 2048
/-- A predicate register, one bit per byte of a vector register (R189). -/
abbrev PReg := BitVec 256

end Sys2Proof
end

