-- ==== Sys2Proof/Syntax.lean ====
section
/-! DEFINITION. Syntax of the machine: operand kinds (Tables 6.5 and 6.6), the operands of the part's events, and
Instr, one constructor per row of spec/opcode_table.json. A slot instruction carries the fields of its word
(R130, R141); an event carries what happened from outside or which unit moves. -/
namespace Sys2Proof

/-- The eight slots of a bundle, in slot index order (Table 6.1). -/
inductive Slot where
  | B | S | VA | VB | M | L | Q | N
deriving DecidableEq, Repr

/-- The guard of a slot word: GN and GF (R130, R131). -/
structure Guard where
  neg : Bool
  flag : BitVec 3
deriving DecidableEq, Repr

/-- A vector file, and so a vector unit (R133, R188). -/
inductive VFile where
  | va | vb
deriving DecidableEq, Repr

/-- IT codes of Table 6.5, in code order. -/
inductive IntTy where
  | s8 | s16 | s32 | s64 | z8 | z16 | z32 | z64
deriving DecidableEq, Repr

/-- FT codes of Table 6.5, in code order. -/
inductive FpTy where
  | f32 | f16 | bf16 | e4m3 | e5m2 | e2m1
deriving DecidableEq, Repr

/-- MT codes of Table 6.5, in code order. -/
inductive MatTy where
  | bf16 | f16 | e4m3 | e5m2 | e2m1 | s8 | z8
deriving DecidableEq, Repr

/-- CV codes of Table 6.5, in code order. -/
inductive CvTy where
  | fp (t : FpTy)
  | s32 | s8
deriving DecidableEq, Repr

/-- SCV codes of Table 6.5, in code order; code 7 is reserved. -/
inductive ScvTy where
  | f32 | f16 | bf16 | s32 | s64 | z32 | z64
deriving DecidableEq, Repr

/-- TA codes of the atomic rows (R142). -/
inductive AtomTy where
  | s32 | s64 | z32 | z64
deriving DecidableEq, Repr

/-- OPC codes of the atomic rows (R142, Table 10.2). -/
inductive AtomOp where
  | add | min | max | and | or | xor | xchg | cas
deriving DecidableEq, Repr

/-- Scopes, SC codes of Table 6.6 (R87). -/
inductive Scope where
  | tile | die | pkg | dom
deriving DecidableEq, Repr

/-- ORD codes of Table 6.6; 6 and 7 are reserved. -/
inductive Ord where
  | relaxed | acq
  | rel (s : Scope)
deriving DecidableEq, Repr

/-- RM codes of Table 6.6; 3 is reserved and SR is admitted by VCVT only. -/
inductive Rm where
  | rne | rtz | sr
deriving DecidableEq, Repr

/-- Compare codes 0 to 13 of Tables 7.15 and 8.5, in code order. -/
inductive Cc where
  | eq | ne | lt | ge | le | gt | ltz | gez | lez | gtz | tst | ntst | un | ord
deriving DecidableEq, Repr

/-- Functions of VSFU (R195). -/
inductive Sfu where
  | rcp | rsqrt | sqrt | exp2 | log2
deriving DecidableEq, Repr

/-- Names a context by the model's tract number and its rank in the tract (R29, R30). -/
structure CtxKey where
  tract : Nat
  rank : Nat
deriving DecidableEq, Repr

/-- Header of an MHT request: host port, stream, sequence number and target die (R305). -/
structure Mht where
  port : Nat
  stream : Nat
  seq : Nat
  die : Nat
deriving DecidableEq, Repr

/-- The home of an atomic (R102): a channel's atomic unit, or the LM port that serves a context. -/
inductive AtomHome where
  | channel (ch : Nat)
  | lm (k : CtxKey)
deriving DecidableEq, Repr

/-- A byte with its poison mark (R343, R344). -/
abbrev Marked := Byte × Bool

/-- What a request that crosses CLP asks for (R20, R65, R66). -/
inductive ClpOp where
  | read (len : Nat)
  | write (data : List Marked)
  | atomic (t : AtomTy) (op : AtomOp) (v expd : Word)
  | fadd (v : Word32)
  | atomx (words : Nat) (recd : List Byte)
  | signal (inc : Word32)
deriving DecidableEq, Repr

/-- A message that crosses CLP: a request to a virtual address or to a remote LM address, or the answer to one (R65, R66). die
is the die whose port receives it (R76), src the requesting device, and tag its number there. code 0 means no fault; else a code
of Table 16.3 with DETAIL. news is the end of a group member (R349), and groupDone that of the last member of a group (R33,
R35). -/
inductive ClpMsg where
  | vaRequest (die src tag : Nat) (gid : Word32) (va : Word) (op : ClpOp)
  | lmRequest (die src tag : Nat) (gid : Word32) (addr : Word) (op : ClpOp)
  | answer (tag : Nat) (data : List Marked) (code : Nat) (detail : Nat)
  | news (gid : Word32)
  | groupDone (gid : Word32)
deriving DecidableEq, Repr

/-- A member of a group already matched on another device (R33). -/
structure Member where
  g : Nat
  t : Nat
  grank : Nat
deriving DecidableEq, Repr

/-- An arbiter that counts byte-budget windows (R294): a channel, or one direction of the edge that leaves a die. -/
inductive Arbiter where
  | channel (ch : Nat)
  | link (die : Nat) (clockwise : Bool)
deriving DecidableEq, Repr

/-- A coolant report (R296, R380): inlet in 1/16 degree Celsius, flow in 1/10 L/min. -/
structure Coolant where
  inlet : Int
  flow : Int
deriving DecidableEq, Repr

/-- Cooling methods of Table 12.1. -/
inductive Cooling where
  | coldPlate | immersion | air
deriving DecidableEq, Repr

/-- Where an uncorrectable error lies (R343): a granule of HBM, or a 64-bit word of tile storage. -/
inductive StoreLoc where
  | hbm (pa : Nat)
  | lm (k : CtxKey) (off : Nat)
  | ts (k : CtxKey) (off : Nat)
  | asPlane (k : CtxKey) (off : Nat)
  | sem (k : CtxKey) (i : Nat)
  | istore (k : CtxKey) (off : Nat)
deriving DecidableEq, Repr

/-- The instructions and events of the part, one constructor per row of the opcode table. -/
inductive Instr where
  /-- XIM. R132: lends 20 immediate bits to the slot TGT. -/
  | xim (tgt : BitVec 3) (imm : BitVec 20)
  /-- BPRE. R151: PC-relative branch target. -/
  | bpre (g : Guard) (bd : BitVec 3) (off : BitVec 17)
  /-- BPRES. R151: branch target from an s register. -/
  | bpres (g : Guard) (bd : BitVec 3) (sa : BitVec 6)
  /-- BR. R152. -/
  | br (g : Guard) (bt : BitVec 3)
  /-- CALL. R152. -/
  | call (g : Guard) (bt : BitVec 3)
  /-- RET. R152. -/
  | ret (g : Guard)
  /-- LOOP. R155, immediate count. -/
  | loop (g : Guard) (len : BitVec 6) (cnt : BitVec 13)
  /-- LOOP_REG. R155, register count. -/
  | loopReg (g : Guard) (len : BitVec 6) (sa : BitVec 6)
  /-- REPM. R158, immediate count. -/
  | repm (g : Guard) (n : BitVec 19)
  /-- REPM_REG. R158, register count. -/
  | repmReg (g : Guard) (sa : BitVec 6)
  /-- WAIT. R162. -/
  | wait (g : Guard) (sem : BitVec 8) (n : BitVec 8) (acq : Bool)
  /-- WAITD. R162. -/
  | waitd (g : Guard) (sem : BitVec 8) (n : BitVec 8) (acq : Bool)
  /-- SIG. R163. -/
  | sig (g : Guard) (sem : BitVec 8) (inc : BitVec 8) (sc : Scope) (rel : Bool)
  /-- SEMSET. R163. -/
  | semset (g : Guard) (sem : BitVec 8) (v : BitVec 12)
  /-- EVWAIT. R166. -/
  | evwait (g : Guard) (mask : BitVec 16)
  /-- EVCLR. R166. -/
  | evclr (g : Guard) (mask : BitVec 16)
  /-- FENCE. R101. -/
  | fence (g : Guard) (sc : Scope)
  /-- FNI. R100. -/
  | fni (g : Guard) (ft : BitVec 3) (sc : Scope)
  /-- FNW. R100. -/
  | fnw (g : Guard) (ft : BitVec 3)
  /-- TRAP. R168. -/
  | trap (g : Guard) (code : BitVec 16)
  /-- TRET. R52, R169. -/
  | tret (g : Guard) (sv : BitVec 6)
  /-- SYS. R170. -/
  | sys (g : Guard) (code : BitVec 16)
  /-- YIELD. R171. -/
  | yield (g : Guard)
  /-- EXIT. R40, R172. -/
  | exit (g : Guard)
  /-- ADD. R174. -/
  | add (g : Guard) (sd sa sb : BitVec 6)
  /-- SUB. R174. -/
  | sub (g : Guard) (sd sa sb : BitVec 6)
  /-- MUL. R174. -/
  | mul (g : Guard) (sd sa sb : BitVec 6)
  /-- MULH. R174. -/
  | mulh (g : Guard) (sd sa sb : BitVec 6)
  /-- MULHZ. R174. -/
  | mulhz (g : Guard) (sd sa sb : BitVec 6)
  /-- DIV. R174, R175. -/
  | div (g : Guard) (sd sa sb : BitVec 6)
  /-- DIVZ. R174, R175. -/
  | divz (g : Guard) (sd sa sb : BitVec 6)
  /-- REM. R174, R175. -/
  | rem (g : Guard) (sd sa sb : BitVec 6)
  /-- REMZ. R174, R175. -/
  | remz (g : Guard) (sd sa sb : BitVec 6)
  /-- AND. R174. -/
  | and (g : Guard) (sd sa sb : BitVec 6)
  /-- OR. R174. -/
  | or (g : Guard) (sd sa sb : BitVec 6)
  /-- XOR. R174. -/
  | xor (g : Guard) (sd sa sb : BitVec 6)
  /-- SHL. R174. -/
  | shl (g : Guard) (sd sa sb : BitVec 6)
  /-- SHR. R174. -/
  | shr (g : Guard) (sd sa sb : BitVec 6)
  /-- SRA. R174. -/
  | sra (g : Guard) (sd sa sb : BitVec 6)
  /-- MIN. R174. -/
  | min (g : Guard) (sd sa sb : BitVec 6)
  /-- MAX. R174. -/
  | max (g : Guard) (sd sa sb : BitVec 6)
  /-- MINZ. R174. -/
  | minz (g : Guard) (sd sa sb : BitVec 6)
  /-- MAXZ. R174. -/
  | maxz (g : Guard) (sd sa sb : BitVec 6)
  /-- ADDI. R176. -/
  | addi (g : Guard) (sd sa : BitVec 6) (imm : BitVec 8)
  /-- ANDI. R176. -/
  | andi (g : Guard) (sd sa : BitVec 6) (imm : BitVec 8)
  /-- ORI. R176. -/
  | ori (g : Guard) (sd sa : BitVec 6) (imm : BitVec 8)
  /-- XORI. R176. -/
  | xori (g : Guard) (sd sa : BitVec 6) (imm : BitVec 8)
  /-- SHLI. R176. -/
  | shli (g : Guard) (sd sa : BitVec 6) (imm : BitVec 8)
  /-- SHRI. R176. -/
  | shri (g : Guard) (sd sa : BitVec 6) (imm : BitVec 8)
  /-- SRAI. R176. -/
  | srai (g : Guard) (sd sa : BitVec 6) (imm : BitVec 8)
  /-- CMP. R179. -/
  | cmp (g : Guard) (fd : BitVec 3) (cc : Cc) (sa sb : BitVec 6)
  /-- CMPI. R179. -/
  | cmpi (g : Guard) (fd : BitVec 3) (cc : Cc) (sa : BitVec 6) (imm : BitVec 7)
  /-- FLOP. R180. -/
  | flop (g : Guard) (fd fa fb : BitVec 3) (tt : BitVec 4)
  /-- SEL. R181. -/
  | sel (g : Guard) (sd sa : BitVec 6) (sb : BitVec 5) (fc : BitVec 3)
  /-- MOVI. R177. -/
  | movi (g : Guard) (sd : BitVec 6) (imm : BitVec 14)
  /-- MOVHI. R177. -/
  | movhi (g : Guard) (sd : BitVec 6) (imm : BitVec 14)
  /-- CLZ. R178. -/
  | clz (g : Guard) (sd sa : BitVec 6)
  /-- POPC. R178. -/
  | popc (g : Guard) (sd sa : BitVec 6)
  /-- BFX. R178. -/
  | bfx (g : Guard) (sd sa sb : BitVec 6)
  /-- BFI. R178. -/
  | bfi (g : Guard) (sd sa sb : BitVec 6)
  /-- FADD. R182. -/
  | fadd (g : Guard) (sd sa sb : BitVec 6)
  /-- FSUB. R182. -/
  | fsub (g : Guard) (sd sa sb : BitVec 6)
  /-- FMUL. R182. -/
  | fmul (g : Guard) (sd sa sb : BitVec 6)
  /-- FMA. R182. -/
  | fma (g : Guard) (sd sa sb sc : BitVec 5)
  /-- FDIV. R182. -/
  | fdiv (g : Guard) (sd sa sb : BitVec 6)
  /-- FSQRT. R182. -/
  | fsqrt (g : Guard) (sd sa : BitVec 6)
  /-- FCMP. R179. -/
  | fcmp (g : Guard) (fd : BitVec 3) (cc : Cc) (sa sb : BitVec 6)
  /-- FCVT. R183. -/
  | fcvt (g : Guard) (sd sa : BitVec 6) (tfrom tto : ScvTy) (rm : Rm)
  /-- MOVSA. R184. -/
  | movsa (g : Guard) (ad : BitVec 5) (sa : BitVec 6)
  /-- MOVAS. R184. -/
  | movas (g : Guard) (sd : BitVec 6) (aa : BitVec 5)
  /-- MOVSV. R184. -/
  | movsv (g : Guard) (vf : VFile) (vd : BitVec 5) (sa : BitVec 6)
  /-- CSRR. R185. -/
  | csrr (g : Guard) (sd : BitVec 6) (n : BitVec 8)
  /-- CSRW. R185. -/
  | csrw (g : Guard) (sa : BitVec 6) (n : BitVec 8)
  /-- SEMRD. R187. -/
  | semrd (g : Guard) (sd : BitVec 6) (sem : BitVec 8)
  /-- VAND. R199. -/
  | vand (u : VFile) (g : Guard) (vd va vb pg : BitVec 5)
  /-- VOR. R199. -/
  | vor (u : VFile) (g : Guard) (vd va vb pg : BitVec 5)
  /-- VXOR. R199. -/
  | vxor (u : VFile) (g : Guard) (vd va vb pg : BitVec 5)
  /-- VMOV. R199. -/
  | vmov (u : VFile) (g : Guard) (vd va pg : BitVec 5)
  /-- VSEL. R199. -/
  | vsel (u : VFile) (g : Guard) (vd va vb pg : BitVec 5)
  /-- VSPLAT. R200. -/
  | vsplat (u : VFile) (g : Guard) (vd : BitVec 5) (imm : BitVec 10) (pg : BitVec 5)
  /-- VXF. R203. -/
  | vxf (u : VFile) (g : Guard) (vd vs pg : BitVec 5)
  /-- VADD. R192. -/
  | vadd (u : VFile) (g : Guard) (t : IntTy) (vd va vb pg : BitVec 5)
  /-- VSUB. R192. -/
  | vsub (u : VFile) (g : Guard) (t : IntTy) (vd va vb pg : BitVec 5)
  /-- VMUL. R192. -/
  | vmul (u : VFile) (g : Guard) (t : IntTy) (vd va vb pg : BitVec 5)
  /-- VMULH. R192. -/
  | vmulh (u : VFile) (g : Guard) (t : IntTy) (vd va vb pg : BitVec 5)
  /-- VMIN. R192. -/
  | vmin (u : VFile) (g : Guard) (t : IntTy) (vd va vb pg : BitVec 5)
  /-- VMAX. R192. -/
  | vmax (u : VFile) (g : Guard) (t : IntTy) (vd va vb pg : BitVec 5)
  /-- VSHL. R192. -/
  | vshl (u : VFile) (g : Guard) (t : IntTy) (vd va vb pg : BitVec 5)
  /-- VSHR. R192. -/
  | vshr (u : VFile) (g : Guard) (t : IntTy) (vd va vb pg : BitVec 5)
  /-- VSRA. R192. -/
  | vsra (u : VFile) (g : Guard) (t : IntTy) (vd va vb pg : BitVec 5)
  /-- VABS. R192. -/
  | vabs (u : VFile) (g : Guard) (t : IntTy) (vd va pg : BitVec 5)
  /-- VCMP. R196. -/
  | vcmp (u : VFile) (g : Guard) (t : IntTy) (pd va vb : BitVec 5) (cc : Cc)
  /-- VIOTA. R200. -/
  | viota (u : VFile) (g : Guard) (t : IntTy) (vd : BitVec 5) (imm : BitVec 10) (pg : BitVec 5)
  /-- VTRN. R202. -/
  | vtrn (u : VFile) (g : Guard) (t : IntTy) (vd va vb pg : BitVec 5)
  /-- VPERM. R201. -/
  | vperm (u : VFile) (g : Guard) (t : IntTy) (vd va vb pg : BitVec 5)
  /-- VMOVS. R204. -/
  | vmovs (u : VFile) (g : Guard) (t : IntTy) (sd : BitVec 6) (va : BitVec 5) (lane : BitVec 8)
  /-- VFADD. R193. -/
  | vfadd (u : VFile) (g : Guard) (t : FpTy) (vd va vb pg : BitVec 5)
  /-- VFSUB. R193. -/
  | vfsub (u : VFile) (g : Guard) (t : FpTy) (vd va vb pg : BitVec 5)
  /-- VFMUL. R193. -/
  | vfmul (u : VFile) (g : Guard) (t : FpTy) (vd va vb pg : BitVec 5)
  /-- VFMA. R193. -/
  | vfma (u : VFile) (g : Guard) (t : FpTy) (vd va vb pg : BitVec 5)
  /-- VFNMA. R193. -/
  | vfnma (u : VFile) (g : Guard) (t : FpTy) (vd va vb pg : BitVec 5)
  /-- VFMIN. R194. -/
  | vfmin (u : VFile) (g : Guard) (t : FpTy) (vd va vb pg : BitVec 5)
  /-- VFMAX. R194. -/
  | vfmax (u : VFile) (g : Guard) (t : FpTy) (vd va vb pg : BitVec 5)
  /-- VFSGN. R194. -/
  | vfsgn (u : VFile) (g : Guard) (t : FpTy) (vd va vb pg : BitVec 5)
  /-- VFCMP. R196. -/
  | vfcmp (u : VFile) (g : Guard) (t : FpTy) (pd va vb : BitVec 5) (cc : Cc)
  /-- VSFU. R195. -/
  | vsfu (u : VFile) (g : Guard) (fn : Sfu) (vd va pg : BitVec 5)
  /-- VRED. R209. -/
  | vred (u : VFile) (g : Guard) (vd va pg : BitVec 5)
  /-- VCOMB. R210. -/
  | vcomb (u : VFile) (g : Guard) (vd va vb pg : BitVec 5)
  /-- VCVT. R205, R206. -/
  | vcvt (u : VFile) (g : Guard) (d s : CvTy) (rm : Rm) (vd va pg : BitVec 5)
  /-- VQNT. R207. -/
  | vqnt (u : VFile) (g : Guard) (t : FpTy) (vd va pg : BitVec 5)
  /-- VDQNT. R208. -/
  | vdqnt (u : VFile) (g : Guard) (t : FpTy) (vd va pg : BitVec 5)
  /-- PLOGIC. R197. -/
  | plogic (u : VFile) (g : Guard) (pd pa pb : BitVec 5) (tt : BitVec 4)
  /-- PSET. R197. -/
  | pset (u : VFile) (g : Guard) (pd : BitVec 5) (n : BitVec 9)
  /-- VANY. R198. -/
  | vany (u : VFile) (g : Guard) (fd : BitVec 3) (pa : BitVec 5)
  /-- VALL. R198. -/
  | vall (u : VFile) (g : Guard) (fd : BitVec 3) (pa : BitVec 5)
  /-- MOPEN. R223. -/
  | mopen (g : Guard) (ch : BitVec 3) (h d : BitVec 5) (cs : BitVec 3) (mk : BitVec 4)
  /-- MCLOSE. R227. -/
  | mclose (g : Guard) (ch : BitVec 3)
  /-- MCOMB. R228. -/
  | mcomb (g : Guard) (ch chb : BitVec 3)
  /-- MOUT. R232. -/
  | mout (g : Guard) (pl : BitVec 5) (mx : BitVec 4) (t : FpTy) (rm : Rm)
  /-- MLDA. R233. -/
  | mlda (g : Guard) (pl : BitVec 5) (mx : BitVec 4) (t : FpTy)
  /-- MSCALE. R222. -/
  | mscale (g : Guard) (tabB : Bool) (mx : BitVec 4)
  /-- MCFG. R221. -/
  | mcfg (g : Guard) (cfg : BitVec 20)
  /-- MSET. R234. -/
  | mset (g : Guard) (md : BitVec 4) (imm : BitVec 16)
  /-- MADD. R234. -/
  | madd (g : Guard) (md : BitVec 4) (imm : BitVec 16)
  /-- MMA. R224. -/
  | mma (g : Guard) (t : MatTy) (ch : BitVec 3) (mx my ms mt : BitVec 4)
  /-- MMAG. R230. -/
  | mmag (g : Guard) (t : MatTy) (ch : BitVec 3) (mx my ms mt : BitVec 4)
  /-- VLD. R238. -/
  | vld (g : Guard) (f : VFile) (v aa : BitVec 5) (disp : BitVec 9)
  /-- VST. R238. -/
  | vst (g : Guard) (f : VFile) (v aa : BitVec 5) (disp : BitVec 9)
  /-- VLDS. R238. -/
  | vlds (g : Guard) (f : VFile) (v aa ax : BitVec 5)
  /-- VSTS. R238. -/
  | vsts (g : Guard) (f : VFile) (v aa ax : BitVec 5)
  /-- VLDB. R238. -/
  | vldb (g : Guard) (f : VFile) (v aa : BitVec 5) (disp : BitVec 9)
  /-- PLD. R238. -/
  | pld (g : Guard) (pd aa : BitVec 5) (disp : BitVec 10)
  /-- PST. R238. -/
  | pst (g : Guard) (pd aa : BitVec 5) (disp : BitVec 10)
  /-- AADD. R240. -/
  | aadd (g : Guard) (ad aa ab : BitVec 5)
  /-- AADDI. R240. -/
  | aaddi (g : Guard) (ad aa : BitVec 5) (imm : BitVec 10)
  /-- ASET. R240. -/
  | aset (g : Guard) (ad : BitVec 5) (imm : BitVec 15)
  /-- ALD. R238. -/
  | ald (g : Guard) (ad aa : BitVec 5) (disp : BitVec 10)
  /-- AST. R238. -/
  | ast (g : Guard) (ad aa : BitVec 5) (disp : BitVec 10)
  /-- VGTH. R239. -/
  | vgth (g : Guard) (t : IntTy) (f : VFile) (v aa vx : BitVec 5)
  /-- VSCT. R239. -/
  | vsct (g : Guard) (t : IntTy) (f : VFile) (v aa vx : BitVec 5)
  /-- SLD. R238. -/
  | sld (g : Guard) (t : IntTy) (sd : BitVec 6) (aa : BitVec 5) (disp : BitVec 9)
  /-- SST. R238. -/
  | sst (g : Guard) (t : IntTy) (sd : BitVec 6) (aa : BitVec 5) (disp : BitVec 9)
  /-- LATOM. R241. -/
  | latom (g : Guard) (t : AtomTy) (op : AtomOp) (sd : BitVec 6) (aa : BitVec 5) (sb : BitVec 6) (ord : Ord)
  /-- CPY. R244. -/
  | cpy (g : Guard) (ad src ac : BitVec 5)
  /-- CPY2. R246. -/
  | cpy2 (g : Guard) (ad src ac ax : BitVec 5)
  /-- CPYT. R247. -/
  | cpyt (g : Guard) (ad src ac : BitVec 5)
  /-- CPYLT. R247. -/
  | cpylt (g : Guard) (ad src ac : BitVec 5)
  /-- CPYA. R247. -/
  | cpya (g : Guard) (ad src ac : BitVec 5)
  /-- CPYZ. R244, Table 10.4. -/
  | cpyz (g : Guard) (ad ac : BitVec 5)
  /-- CPYG. R248. -/
  | cpyg (g : Guard) (ad src ac ax : BitVec 5)
  /-- CPYR. R254. -/
  | cpyr (g : Guard) (ar : BitVec 5)
  /-- ATOM. R249. -/
  | atom (g : Guard) (t : AtomTy) (op : AtomOp) (aa ac : BitVec 5) (sv : BitVec 6) (ord : Ord)
  /-- ATOM_F32_FADD. R250. -/
  | atomFadd (g : Guard) (aa ac : BitVec 5) (sv : BitVec 6)
  /-- ATOMX. R251. -/
  | atomx (g : Guard) (aa ar ac : BitVec 5)
  /-- RST. R256. -/
  | rst (g : Guard) (ad src ac : BitVec 5)
  /-- RSTS. R256. -/
  | rsts (g : Guard) (ar : BitVec 5) (sv : BitVec 6) (ac : BitVec 5)
  /-- RCPY. R256. -/
  | rcpy (g : Guard) (ad src ac : BitVec 5)
  /-- RGET. R256. -/
  | rget (g : Guard) (ad src ac : BitVec 5)
  /-- RSIG. R257. -/
  | rsig (g : Guard) (ar : BitVec 5) (inc : BitVec 8) (sc : Scope) (rel : Bool)
  /-- MCAST. R259. -/
  | mcast (g : Guard) (ad src ac ax : BitVec 5)
  /-- RATOM. R258. -/
  | ratom (g : Guard) (t : AtomTy) (op : AtomOp) (aa ac : BitVec 5) (sv : BitVec 6) (ord : Ord)
  /-- RESULT_LAND. R7: the i-th result in flight of context k lands. -/
  | resultLand (k : CtxKey) (i : Nat)
  /-- WAIT_RETIRE. R162: a held WAIT or WAITD is tested again. -/
  | waitRetire (k : CtxKey)
  /-- FNW_RETIRE. R100. -/
  | fnwRetire (k : CtxKey)
  /-- FENCE_RETIRE. R101. -/
  | fenceRetire (k : CtxKey)
  /-- EVWAIT_RETIRE. R166. -/
  | evwaitRetire (k : CtxKey)
  /-- SYS_REPLY. R170: the distributor's own reply. -/
  | sysReply (k : CtxKey)
  /-- LATOM_PERFORM. R241. -/
  | latomPerform (k : CtxKey)
  /-- COPY_REQUEST_SERVE. R243: the engine serves the next request of entry e, of at most len bytes. -/
  | copyRequestServe (k : CtxKey) (e : Nat)
  /-- LM_PORT_SERVE. R58: the LM port serves a copy engine's request. -/
  | lmPortServe (site : Nat)
  /-- CHANNEL_SERVE. R82. -/
  | channelServe (ch : Nat)
  /-- ATOMIC_PERFORM. R102. -/
  | atomicPerform (h : AtomHome)
  /-- ATOMX_ROUTINE_RUN. R251. -/
  | atomxRoutineRun (ch : Nat)
  /-- REMOTE_ARRIVAL. R65: a CLP message arrives. -/
  | remoteArrival (m : ClpMsg)
  /-- WALK_READ_RETURN. R73. -/
  | walkReadReturn (die : Nat) (w : Nat)
  /-- COPY_COMPLETE. R99. -/
  | copyComplete (k : CtxKey) (e : Nat)
  /-- COPY_CUT. R339. -/
  | copyCut (k : CtxKey) (e : Nat)
  /-- COPY_FATAL. R337. -/
  | copyFatal (k : CtxKey) (e : Nat)
  /-- M_UNIT_START. R218. -/
  | mUnitStart (site : Nat)
  /-- M_UNIT_END. R224. -/
  | mUnitEnd (site : Nat)
  /-- MMAG_SLICE_ARRIVE. R231: a slice of rank sender reaches k. -/
  | mmagSliceArrive (k : CtxKey) (sender : Nat)
  /-- TIMING_REPLAY. R299. -/
  | timingReplay (site : Nat)
  /-- MHT_REGRD. R305, R306. -/
  | mhtRegrd (h : Mht) (off : Nat)
  /-- MHT_REGWR. R306. -/
  | mhtRegwr (h : Mht) (off : Nat) (v : Word)
  /-- MHT_MEMRD. R306. -/
  | mhtMemrd (h : Mht) (pa len : Nat)
  /-- MHT_MEMWR. R306, R307. -/
  | mhtMemwr (h : Mht) (pa : Nat) (bytes : List Byte)
  /-- BOOTLOAD. R311. -/
  | bootload (h : Mht) (image : List Byte)
  /-- FWSTAGE. R314. -/
  | fwstage (h : Mht) (target : Nat) (pa : Nat)
  /-- ATTEST. R313. -/
  | attest (h : Mht) (nonce : BitVec 256)
  /-- EVPOST. R305 (Table 13.1). -/
  | evpost (h : Mht) (queue seq : Nat)
  /-- NREPLY. R170. -/
  | nreply (h : Mht) (k : CtxKey) (v : Word)
  /-- STEPPE. R303. -/
  | steppe (h : Mht)
  /-- INV_ALL. R77, kind 0. -/
  | invAll (h : Mht) (v : Word)
  /-- INV_ASID. R77, kind 1. -/
  | invAsid (h : Mht) (v : Word)
  /-- INV_RANGE. R77, kind 2. -/
  | invRange (h : Mht) (v : Word)
  /-- INV_GLOBAL. R77, kind 3. -/
  | invGlobal (h : Mht) (v : Word)
  /-- DEVCFG_WRITE. R308. -/
  | devcfgWrite (h : Mht) (v : Word)
  /-- ROUTE_ENTRY_WRITE. R309. -/
  | routeEntryWrite (h : Mht) (i : Nat) (v : Word)
  /-- SAVEBASE_WRITE. R353. -/
  | savebaseWrite (h : Mht) (v : Word)
  /-- TKILL. R350. -/
  | tkill (h : Mht) (v : Word)
  /-- ERRSUM_CLEAR. R358. -/
  | errsumClear (h : Mht) (v : Word)
  /-- FENCE_REQUEST. R362. -/
  | fenceRequest (h : Mht) (site : Nat) (v : Word)
  /-- QUEUE_ENABLE. R263. -/
  | queueEnable (q : Nat)
  /-- QUEUE_DISABLE. R263. -/
  | queueDisable (q : Nat)
  /-- DOORBELL. R264. -/
  | doorbell (q : Nat)
  /-- LAUNCH_TAKE. R270. -/
  | launchTake (q : Nat)
  /-- GROUP_MATCH. R33: others are the members matched on other devices. -/
  | groupMatch (q seq : Nat) (others : List Member)
  /-- PLACE_LAUNCH. R274: sites by rank. -/
  | placeLaunch (q seq : Nat) (sites : List Nat)
  /-- RESERVATION. R277. -/
  | reservation (q seq : Nat) (dies : List Nat)
  /-- ALLOC_DONE. R37. -/
  | allocDone (k : CtxKey)
  /-- TRACT_START. R38, R34. -/
  | tractStart (t : Nat) (peersReady : Bool)
  /-- QUANTUM_END. R278. -/
  | quantumEnd (t : Nat)
  /-- SWITCH_OUT. R47. -/
  | switchOut (t : Nat)
  /-- TRACT_SAVED. R47. -/
  | tractSaved (t : Nat)
  /-- SWITCH_IN. R393. -/
  | switchIn (t : Nat) (sites : List Nat)
  /-- LAUNCH_COMPLETE. R42. -/
  | launchComplete (t : Nat)
  /-- DONE_ADVANCE. R273. -/
  | doneAdvance (q : Nat)
  /-- TRACT_END. R347. -/
  | tractEnd (t : Nat)
  /-- TDRAIN_EXPIRY. R348. -/
  | tdrainExpiry (t : Nat)
  /-- PEER_END_NEWS. R349. -/
  | peerEndNews (gid : Word32)
  /-- REISSUE. R364. -/
  | reissue (q seq : Nat) (sites : List Nat)
  /-- GRANT_TAKE_EFFECT. R292. -/
  | grantTakeEffect (k : CtxKey)
  /-- BUDGET_WINDOW. R294. -/
  | budgetWindow (a : Arbiter)
  /-- BUDGET_ADJUST. R295: mw is the measured power in milliwatts. -/
  | budgetAdjust (die : Nat) (mw : Nat)
  /-- COOLANT_REPORT. R297: none is a missing report. -/
  | coolantReport (r : Option Coolant)
  /-- OVERCURRENT_CHECK. R384. -/
  | overcurrentCheck (die : Nat) (mw : Nat)
  /-- OCL_RELEASE. R384. -/
  | oclRelease (die : Nat)
  /-- THERMAL_TRIP. R385. -/
  | thermalTrip (site : Nat) (deg : BitVec 16)
  /-- TRIP_RELEASE. R385. -/
  | tripRelease (site : Nat) (deg : BitVec 16)
  /-- GLEN_WINDOW. R300. -/
  | glenWindow (site dom step replays : Nat)
  /-- FENCE_SITE. R363. -/
  | fenceSite (site : Nat)
  /-- UNCORRECTABLE_ERROR. R343. -/
  | uncorrectableError (l : StoreLoc)
  /-- LINK_WINDOW. R366: edge e joins dies e and (e + 1) mod 4. -/
  | linkWindow (edge rplA rplB : Nat)
  /-- RETRAIN_ATTEMPT. R366. -/
  | retrainAttempt (edge modsA modsB : Nat)
  /-- ROUTE_RESYNC. R368. -/
  | routeResync (edge : Nat)
  /-- LTO_EXPIRY. R369. -/
  | ltoExpiry (edge : Nat)
  /-- DIE_LOSS. R370. -/
  | dieLoss (die : Nat)
  /-- PORT_LOSS. R375. -/
  | portLoss (die p : Nat)
  /-- PORT_DOWN. R375. -/
  | portDown (die p : Nat)
  /-- CHANNEL_LOST. R376. -/
  | channelLost (ch : Nat)
  /-- POWER_ON. R310: the board identity read at boot names the cooling (R296). -/
  | powerOn (cooling : Cooling)
  /-- BOOT_HEARTBEAT_TIMEOUT. R387. -/
  | bootHeartbeatTimeout (die : Nat)
  /-- CONTROLLER_SILENT. R370. -/
  | controllerSilent (die target : Nat)
  /-- RELEASE_PERFORM. R98: the i-th waiting release of k. -/
  | releasePerform (k : CtxKey) (i : Nat)
  /-- PORT_UP. R375. -/
  | portUp (die p : Nat)
  /-- NOP. R129: an empty slot word, in any slot. -/
  | nop
  /-- INVALIDATION_COMPLETE. R78. -/
  | invalidationComplete
  /-- ARBITRATE. R289. -/
  | arbitrate
  /-- POWER_LOSS. R27. -/
  | powerLoss
  /-- BOOT_STAGE_ADVANCE. R310. -/
  | bootStageAdvance
  /-- IMAGE_VERIFIED. R315, step 1. -/
  | imageVerified
  /-- HANDOVER_POINT. R315, step 2. -/
  | handoverPoint
  /-- HANDOVER_TIMEOUT. R388. -/
  | handoverTimeout
  /-- HEARTBEAT. R315, step 4. -/
  | heartbeat
  /-- ROLLBACK. R389. -/
  | rollback
  /-- STEPPE_WRITE. R303. -/
  | steppeWrite
  /-- EXPCAP_WINDOW. R45. -/
  | expcapWindow
  /-- OVERCURRENT_CAP_RESTORE. R384. -/
  | overcurrentCapRestore
  /-- OVERCURRENT_CAP_CUT. R384. -/
  | overcurrentCapCut
  /-- FENCE_COMPLETE. R363. -/
  | fenceComplete
deriving DecidableEq, Repr

end Sys2Proof
end

