-- ==== Sys2Proof/WellFormed.lean ====
section
/-! DEFINITION. Which slot instructions are well formed: the fields that a format, a map row or an instruction's
description restricts (R138, R141, R142). A flaw names the decode fault that the word raises. Events have no word
and no flaw. -/
namespace Sys2Proof

/-- The two decode faults that one slot word can raise (R138). ILL_BUNDLE belongs to the whole bundle. -/
inductive Flaw where
  | illInsn
  | resOpnd
deriving DecidableEq, Repr

namespace WellFormed

/-- The 8, 16 and 32-bit integer types (Table 6.16, IT 0, 1, 2, 4, 5, 6). -/
def narrow : IntTy → Bool
  | .s64 | .z64 => false
  | _ => true

/-- The .z8, .z16 and .z32 types (IT 4, 5, 6). -/
def zNarrow : IntTy → Bool
  | .z8 | .z16 | .z32 => true
  | _ => false

/-- The .s8, .s16 and .s32 types (IT 0, 1, 2). -/
def sNarrow : IntTy → Bool
  | .s8 | .s16 | .s32 => true
  | _ => false

/-- FT 0 to 2. -/
def wide : FpTy → Bool
  | .f32 | .f16 | .bf16 => true
  | _ => false

/-- A predicate field names p0 to p23 (R138). -/
def pred (p : BitVec 5) : Bool := p.toNat < 24

/-- Element count minus one of a 2048-bit register (Table 8.1, R204). -/
def laneMax : IntTy → Nat
  | .s8 | .z8 => 255
  | .s16 | .z16 => 127
  | _ => 63

/-- Compare codes that CMP and CMPI admit (Table 7.15). -/
def ccInt : Cc → Bool
  | .un | .ord => false
  | _ => true

/-- Compare codes that VCMP admits (Table 8.5). -/
def ccVec : Cc → Bool
  | .eq | .ne | .lt | .ge | .le | .gt => true
  | _ => false

/-- Compare codes that FCMP and VFCMP admit (Tables 7.15 and 8.5). -/
def ccFp : Cc → Bool
  | .un | .ord => true
  | c => ccVec c

/-- SCV codes of integers (R183). -/
def scvInt : ScvTy → Bool
  | .f32 | .f16 | .bf16 => false
  | _ => true

/-- Unscaled matrix types (R119, R224). -/
def unscaled : MatTy → Bool
  | .e4m3 | .e5m2 | .e2m1 => false
  | _ => true

/-- Conversions that VCVT refuses (R205). -/
def vcvtBad (d s : CvTy) (rm : Rm) : Bool :=
  (rm == .sr && (d == .s32 || d == .s8)) ||
  (d == s && match d with
    | .fp t => !wide t
    | _ => true)

/-- Control and status registers that CSRW may name (Table 7.18). -/
def csrWritable (n : BitVec 8) : Bool :=
  n == 0x07 || n == 0x0D || n == 0x0E || n == 0x0F

/-- A flag destination is not f0 (R138). -/
def flagDst (fd : BitVec 3) : Bool := fd != 0

/-- Raise f unless ok holds, then look at the rest. -/
def need (ok : Bool) (f : Flaw) (rest : Option Flaw) : Option Flaw :=
  if ok then rest else some f

end WellFormed

open WellFormed in
/-- The decode fault of a slot instruction whose fields break its row, or none. -/
def Instr.flaw : Instr → Option Flaw
  | .evwait _ m => need (m.toNat < 32 && m != 0) .resOpnd none
  | .evclr _ m => need (m.toNat < 32) .resOpnd none
  | .shli _ _ _ i | .shri _ _ _ i | .srai _ _ _ i => need (i.toNat < 64) .resOpnd none
  | .cmp _ fd cc _ _ | .cmpi _ fd cc _ _ => need (flagDst fd && ccInt cc) .resOpnd none
  | .fcmp _ fd cc _ _ => need (flagDst fd && ccFp cc) .resOpnd none
  | .flop _ fd _ _ _ => need (flagDst fd) .resOpnd none
  | .fcvt _ _ _ s d rm => need (rm != .sr && !(scvInt s && scvInt d)) .resOpnd none
  | .csrr _ _ n => need (n.toNat ≤ 0x10) .resOpnd none
  | .csrw _ _ n => need (n.toNat ≤ 0x10) .resOpnd (need (csrWritable n) .illInsn none)
  | .vand _ _ _ _ _ pg | .vor _ _ _ _ _ pg | .vxor _ _ _ _ _ pg | .vsel _ _ _ _ _ pg => need (pred pg) .resOpnd none
  | .vmov _ _ _ _ pg | .vsplat _ _ _ _ pg | .vxf _ _ _ _ pg => need (pred pg) .resOpnd none
  | .vadd _ _ t _ _ _ pg | .vsub _ _ t _ _ _ pg | .vmul _ _ t _ _ _ pg | .vmulh _ _ t _ _ _ pg
  | .vmin _ _ t _ _ _ pg | .vmax _ _ t _ _ _ pg | .vshl _ _ t _ _ _ pg | .vshr _ _ t _ _ _ pg
  | .vsra _ _ t _ _ _ pg => need (narrow t) .illInsn (need (pred pg) .resOpnd none)
  | .vabs _ _ t _ _ pg => need (sNarrow t) .illInsn (need (pred pg) .resOpnd none)
  | .vcmp _ _ t pd _ _ cc => need (narrow t) .illInsn (need (pred pd && ccVec cc) .resOpnd none)
  | .viota _ _ t _ _ pg => need (zNarrow t) .illInsn (need (pred pg) .resOpnd none)
  | .vtrn _ _ t _ _ _ pg | .vperm _ _ t _ _ _ pg => need (zNarrow t) .illInsn (need (pred pg) .resOpnd none)
  | .vmovs _ _ t _ _ lane => need (narrow t) .illInsn (need (lane.toNat ≤ laneMax t) .resOpnd none)
  | .vfadd _ _ t _ _ _ pg | .vfsub _ _ t _ _ _ pg | .vfmul _ _ t _ _ _ pg | .vfma _ _ t _ _ _ pg
  | .vfnma _ _ t _ _ _ pg | .vfmin _ _ t _ _ _ pg | .vfmax _ _ t _ _ _ pg
  | .vfsgn _ _ t _ _ _ pg => need (wide t) .illInsn (need (pred pg) .resOpnd none)
  | .vfcmp _ _ t pd _ _ cc => need (wide t) .illInsn (need (pred pd && ccFp cc) .resOpnd none)
  | .vsfu _ _ _ _ _ pg => need (pred pg) .resOpnd none
  | .vred _ _ _ _ pg => need (pred pg) .resOpnd none
  | .vcomb _ _ _ _ _ pg => need (pg.toNat ≤ 22 && pg.toNat % 2 == 0) .resOpnd none
  | .vcvt _ _ d s rm _ _ pg => need (pred pg && !vcvtBad d s rm) .resOpnd none
  | .vqnt _ _ t _ _ pg | .vdqnt _ _ t _ _ pg => need (!wide t) .illInsn (need (pred pg) .resOpnd none)
  | .plogic _ _ pd pa pb _ => need (pred pd && pred pa && pred pb) .resOpnd none
  | .pset _ _ pd n => need (pred pd && n.toNat ≤ 256) .resOpnd none
  | .vany _ _ fd pa | .vall _ _ fd pa => need (flagDst fd && pred pa) .resOpnd none
  | .mopen _ _ _ _ cs mk => need (cs.toNat ≤ 4 && mk.toNat % 2 == 0) .resOpnd none
  | .mout _ _ _ _ rm => need (rm != .sr) .resOpnd none
  | .mcfg _ cfg => need (cfg.toNat < 16) .resOpnd none
  | .mma _ t _ _ _ ms mt | .mmag _ t _ _ _ ms mt => need (!unscaled t || (ms == 0 && mt == 0)) .resOpnd none
  | .pld _ pd _ _ | .pst _ pd _ _ => need (pred pd) .resOpnd none
  | .vgth _ t _ _ _ _ | .vsct _ t _ _ _ _ => need (zNarrow t) .illInsn none
  | .sst _ t _ _ _ => need (zNarrow t || t == .z64) .illInsn none
  | .atom _ _ op _ _ sv _ | .ratom _ _ op _ _ sv _ => need (op != .cas || sv.toNat % 2 == 0) .resOpnd none
  | _ => none

/-- A slot instruction is well formed when its word raises no decode fault (R138). -/
def Instr.WellFormed (i : Instr) : Prop := i.flaw = none

end Sys2Proof
end

