-- ==== Sys2Proof/Decode.lean ====
section
/-! DEFINITION. The decoder of slot words, total on any word and rejecting by the fault's name (R130, R138, R141,
R142), the bytes of a bundle (R2, R129), and after it the encoder, written from the same tables. -/
namespace Sys2Proof

/-! ### Codes of Tables 6.5, 6.6, 7.15 and 8.5 -/

/-- The IntTy of a code. -/
def IntTy.ofCode (c : BitVec 3) : IntTy :=
  match c.toNat with
  | 0 => .s8
  | 1 => .s16
  | 2 => .s32
  | 3 => .s64
  | 4 => .z8
  | 5 => .z16
  | 6 => .z32
  | _ => .z64

/-- The code of a IntTy. -/
def IntTy.code : IntTy → BitVec 3
  | .s8 => 0
  | .s16 => 1
  | .s32 => 2
  | .s64 => 3
  | .z8 => 4
  | .z16 => 5
  | .z32 => 6
  | .z64 => 7

/-- The FpTy of a code, if the code is assigned. -/
def FpTy.ofCode? (c : BitVec 3) : Option FpTy :=
  match c.toNat with
  | 0 => some (.f32)
  | 1 => some (.f16)
  | 2 => some (.bf16)
  | 3 => some (.e4m3)
  | 4 => some (.e5m2)
  | 5 => some (.e2m1)
  | _ => none

/-- The code of a FpTy. -/
def FpTy.code : FpTy → BitVec 3
  | .f32 => 0
  | .f16 => 1
  | .bf16 => 2
  | .e4m3 => 3
  | .e5m2 => 4
  | .e2m1 => 5

/-- The MatTy of a code, if the code is assigned. -/
def MatTy.ofCode? (c : BitVec 3) : Option MatTy :=
  match c.toNat with
  | 0 => some (.bf16)
  | 1 => some (.f16)
  | 2 => some (.e4m3)
  | 3 => some (.e5m2)
  | 4 => some (.e2m1)
  | 5 => some (.s8)
  | 6 => some (.z8)
  | _ => none

/-- The code of a MatTy. -/
def MatTy.code : MatTy → BitVec 3
  | .bf16 => 0
  | .f16 => 1
  | .e4m3 => 2
  | .e5m2 => 3
  | .e2m1 => 4
  | .s8 => 5
  | .z8 => 6

/-- The CvTy of a code. -/
def CvTy.ofCode (c : BitVec 3) : CvTy :=
  match c.toNat with
  | 0 => .fp .f32
  | 1 => .fp .f16
  | 2 => .fp .bf16
  | 3 => .fp .e4m3
  | 4 => .fp .e5m2
  | 5 => .fp .e2m1
  | 6 => .s32
  | _ => .s8

/-- The code of a CvTy. -/
def CvTy.code : CvTy → BitVec 3
  | .fp .f32 => 0
  | .fp .f16 => 1
  | .fp .bf16 => 2
  | .fp .e4m3 => 3
  | .fp .e5m2 => 4
  | .fp .e2m1 => 5
  | .s32 => 6
  | .s8 => 7

/-- The ScvTy of a code, if the code is assigned. -/
def ScvTy.ofCode? (c : BitVec 3) : Option ScvTy :=
  match c.toNat with
  | 0 => some (.f32)
  | 1 => some (.f16)
  | 2 => some (.bf16)
  | 3 => some (.s32)
  | 4 => some (.s64)
  | 5 => some (.z32)
  | 6 => some (.z64)
  | _ => none

/-- The code of a ScvTy. -/
def ScvTy.code : ScvTy → BitVec 3
  | .f32 => 0
  | .f16 => 1
  | .bf16 => 2
  | .s32 => 3
  | .s64 => 4
  | .z32 => 5
  | .z64 => 6

/-- The AtomTy of a code. -/
def AtomTy.ofCode (c : BitVec 2) : AtomTy :=
  match c.toNat with
  | 0 => .s32
  | 1 => .s64
  | 2 => .z32
  | _ => .z64

/-- The code of a AtomTy. -/
def AtomTy.code : AtomTy → BitVec 2
  | .s32 => 0
  | .s64 => 1
  | .z32 => 2
  | .z64 => 3

/-- The AtomOp of a code. -/
def AtomOp.ofCode (c : BitVec 3) : AtomOp :=
  match c.toNat with
  | 0 => .add
  | 1 => .min
  | 2 => .max
  | 3 => .and
  | 4 => .or
  | 5 => .xor
  | 6 => .xchg
  | _ => .cas

/-- The code of a AtomOp. -/
def AtomOp.code : AtomOp → BitVec 3
  | .add => 0
  | .min => 1
  | .max => 2
  | .and => 3
  | .or => 4
  | .xor => 5
  | .xchg => 6
  | .cas => 7

/-- The Scope of a code. -/
def Scope.ofCode (c : BitVec 2) : Scope :=
  match c.toNat with
  | 0 => .tile
  | 1 => .die
  | 2 => .pkg
  | _ => .dom

/-- The code of a Scope. -/
def Scope.code : Scope → BitVec 2
  | .tile => 0
  | .die => 1
  | .pkg => 2
  | .dom => 3

/-- The Ord of a code, if the code is assigned. -/
def Ord.ofCode? (c : BitVec 3) : Option Ord :=
  match c.toNat with
  | 0 => some (.relaxed)
  | 1 => some (.acq)
  | 2 => some (.rel .tile)
  | 3 => some (.rel .die)
  | 4 => some (.rel .pkg)
  | 5 => some (.rel .dom)
  | _ => none

/-- The code of a Ord. -/
def Ord.code : Ord → BitVec 3
  | .relaxed => 0
  | .acq => 1
  | .rel .tile => 2
  | .rel .die => 3
  | .rel .pkg => 4
  | .rel .dom => 5

/-- The Rm of a code, if the code is assigned. -/
def Rm.ofCode? (c : BitVec 2) : Option Rm :=
  match c.toNat with
  | 0 => some (.rne)
  | 1 => some (.rtz)
  | 2 => some (.sr)
  | _ => none

/-- The code of a Rm. -/
def Rm.code : Rm → BitVec 2
  | .rne => 0
  | .rtz => 1
  | .sr => 2

/-- The Cc of a code, if the code is assigned. -/
def Cc.ofCode? (c : BitVec 4) : Option Cc :=
  match c.toNat with
  | 0 => some (.eq)
  | 1 => some (.ne)
  | 2 => some (.lt)
  | 3 => some (.ge)
  | 4 => some (.le)
  | 5 => some (.gt)
  | 6 => some (.ltz)
  | 7 => some (.gez)
  | 8 => some (.lez)
  | 9 => some (.gtz)
  | 10 => some (.tst)
  | 11 => some (.ntst)
  | 12 => some (.un)
  | 13 => some (.ord)
  | _ => none

/-- The code of a Cc. -/
def Cc.code : Cc → BitVec 4
  | .eq => 0
  | .ne => 1
  | .lt => 2
  | .ge => 3
  | .le => 4
  | .gt => 5
  | .ltz => 6
  | .gez => 7
  | .lez => 8
  | .gtz => 9
  | .tst => 10
  | .ntst => 11
  | .un => 12
  | .ord => 13

/-- The Sfu of a code, if the code is assigned. -/
def Sfu.ofCode? (c : BitVec 5) : Option Sfu :=
  match c.toNat with
  | 0 => some (.rcp)
  | 1 => some (.rsqrt)
  | 2 => some (.sqrt)
  | 3 => some (.exp2)
  | 4 => some (.log2)
  | _ => none

/-- The code of a Sfu. -/
def Sfu.code : Sfu → BitVec 5
  | .rcp => 0
  | .rsqrt => 1
  | .sqrt => 2
  | .exp2 => 3
  | .log2 => 4

/-- The F and VF bit: 0 va, 1 vb (Table 6.11). -/
def VFile.ofBit (b : Bool) : VFile := if b then .vb else .va

/-- The bit of a vector file. -/
def VFile.bit : VFile → BitVec 1
  | .va => 0
  | .vb => 1

/-! ### Fields of a slot word -/

/-- Bits [lo + n - 1 : lo] of a slot word (R2). -/
abbrev fld (w : Word32) (lo n : Nat) : BitVec n := w.extractLsb' lo n

/-- The opcode (Table 6.2). -/
def opOf (w : Word32) : Nat := (fld w 24 8).toNat

/-- The guard (Table 6.2). -/
def guardOf (w : Word32) : Guard := ⟨w.getLsbD 23, fld w 20 3⟩

/-- A decoded slot word, or the decode fault that it raises (R138). -/
inductive Decoded where
  | ok (i : Instr)
  | error (f : Flaw)
deriving DecidableEq, Repr

/-- A field marked 0 must be zero (R4, R138). -/
def zeros (z : Bool) (d : Decoded) : Decoded := if z then d else .error .resOpnd

/-- A code of an operand field that must be assigned (R138). -/
def code {α : Type} (c : Option α) (k : α → Instr) : Decoded :=
  match c with
  | some a => .ok (k a)
  | none => .error .resOpnd

/-- A type code in an opcode that its row must list (R138, R142). -/
def tyCode {α : Type} (c : Option α) (k : α → Decoded) : Decoded :=
  match c with
  | some a => k a
  | none => .error .illInsn

/-- The word of an empty slot (R129, R138). -/
def nopWord (w : Word32) : Decoded := zeros (fld w 0 24 == 0) (.ok .nop)

/-- The B-slot map (Table 6.14). -/
def decodeB (w : Word32) : Decoded :=
  let g := guardOf w
  match opOf w with
  | 0x00 => nopWord w
  | 0x01 => zeros (!w.getLsbD 23) (.ok (.xim (fld w 20 3) (fld w 0 20)))
  | 0x02 => .ok (.bpre g (fld w 17 3) (fld w 0 17))
  | 0x03 => zeros (fld w 0 11 == 0) (.ok (.bpres g (fld w 17 3) (fld w 11 6)))
  | 0x04 => zeros (fld w 0 17 == 0) (.ok (.br g (fld w 17 3)))
  | 0x05 => zeros (fld w 0 17 == 0) (.ok (.call g (fld w 17 3)))
  | 0x06 => zeros (fld w 0 20 == 0) (.ok (.ret g))
  | 0x07 => if w.getLsbD 13 then zeros (fld w 0 7 == 0) (.ok (.loopReg g (fld w 14 6) (fld w 7 6)))
            else .ok (.loop g (fld w 14 6) (fld w 0 13))
  | 0x08 => if w.getLsbD 19 then zeros (fld w 0 13 == 0) (.ok (.repmReg g (fld w 13 6)))
            else .ok (.repm g (fld w 0 19))
  | 0x09 => zeros (fld w 0 3 == 0) (.ok (.wait g (fld w 12 8) (fld w 4 8) (w.getLsbD 3)))
  | 0x0A => zeros (fld w 0 3 == 0) (.ok (.waitd g (fld w 12 8) (fld w 4 8) (w.getLsbD 3)))
  | 0x0B => zeros (!w.getLsbD 0) (.ok (.sig g (fld w 12 8) (fld w 4 8) (.ofCode (fld w 2 2)) (w.getLsbD 1)))
  | 0x0C => .ok (.semset g (fld w 12 8) (fld w 0 12))
  | 0x0D => zeros (fld w 16 4 == 0) (.ok (.evwait g (fld w 0 16)))
  | 0x0E => zeros (fld w 16 4 == 0) (.ok (.evclr g (fld w 0 16)))
  | 0x0F => zeros (fld w 17 3 == 0 && fld w 0 15 == 0) (.ok (.fence g (.ofCode (fld w 15 2))))
  | 0x10 => zeros (fld w 0 15 == 0) (.ok (.fni g (fld w 17 3) (.ofCode (fld w 15 2))))
  | 0x11 => zeros (fld w 0 17 == 0) (.ok (.fnw g (fld w 17 3)))
  | 0x12 => zeros (fld w 16 4 == 0) (.ok (.trap g (fld w 0 16)))
  | 0x13 => zeros (fld w 0 14 == 0) (.ok (.tret g (fld w 14 6)))
  | 0x14 => zeros (fld w 16 4 == 0) (.ok (.sys g (fld w 0 16)))
  | 0x15 => zeros (fld w 0 20 == 0) (.ok (.yield g))
  | 0x16 => zeros (fld w 0 20 == 0) (.ok (.exit g))
  | _ => .error .illInsn

/-- Format SR (Table 6.8). -/
def fmtSR (w : Word32) (k : Guard → BitVec 6 → BitVec 6 → BitVec 6 → Instr) : Decoded :=
  zeros (fld w 0 2 == 0) (.ok (k (guardOf w) (fld w 14 6) (fld w 8 6) (fld w 2 6)))

/-- Format SR with sb = 0 (Table 6.8, R173). -/
def fmtSR1 (w : Word32) (k : Guard → BitVec 6 → BitVec 6 → Instr) : Decoded :=
  zeros (fld w 0 8 == 0) (.ok (k (guardOf w) (fld w 14 6) (fld w 8 6)))

/-- Format SI (Table 6.8). -/
def fmtSI (w : Word32) (k : Guard → BitVec 6 → BitVec 6 → BitVec 8 → Instr) : Decoded :=
  .ok (k (guardOf w) (fld w 14 6) (fld w 8 6) (fld w 0 8))

/-- The S-slot map (Table 6.15). -/
def decodeS (w : Word32) : Decoded :=
  let g := guardOf w
  match opOf w with
  | 0x00 => nopWord w
  | 0x01 => fmtSR w .add
  | 0x02 => fmtSR w .sub
  | 0x03 => fmtSR w .mul
  | 0x04 => fmtSR w .mulh
  | 0x05 => fmtSR w .mulhz
  | 0x06 => fmtSR w .div
  | 0x07 => fmtSR w .divz
  | 0x08 => fmtSR w .rem
  | 0x09 => fmtSR w .remz
  | 0x0A => fmtSR w .and
  | 0x0B => fmtSR w .or
  | 0x0C => fmtSR w .xor
  | 0x0D => fmtSR w .shl
  | 0x0E => fmtSR w .shr
  | 0x0F => fmtSR w .sra
  | 0x10 => fmtSR w .min
  | 0x11 => fmtSR w .max
  | 0x12 => fmtSR w .minz
  | 0x13 => fmtSR w .maxz
  | 0x18 => fmtSI w .addi
  | 0x19 => fmtSI w .andi
  | 0x1A => fmtSI w .ori
  | 0x1B => fmtSI w .xori
  | 0x1C => fmtSI w .shli
  | 0x1D => fmtSI w .shri
  | 0x1E => fmtSI w .srai
  | 0x20 => zeros (!w.getLsbD 0) (code (Cc.ofCode? (fld w 13 4)) (.cmp g (fld w 17 3) · (fld w 7 6) (fld w 1 6)))
  | 0x21 => code (Cc.ofCode? (fld w 13 4)) (.cmpi g (fld w 17 3) · (fld w 7 6) (fld w 0 7))
  | 0x22 => zeros (fld w 0 7 == 0) (.ok (.flop g (fld w 17 3) (fld w 14 3) (fld w 11 3) (fld w 7 4)))
  | 0x23 => .ok (.sel g (fld w 14 6) (fld w 8 6) (fld w 3 5) (fld w 0 3))
  | 0x24 => .ok (.movi g (fld w 14 6) (fld w 0 14))
  | 0x25 => .ok (.movhi g (fld w 14 6) (fld w 0 14))
  | 0x26 => fmtSR1 w .clz
  | 0x27 => fmtSR1 w .popc
  | 0x28 => fmtSR w .bfx
  | 0x29 => fmtSR w .bfi
  | 0x30 => fmtSR w .fadd
  | 0x31 => fmtSR w .fsub
  | 0x32 => fmtSR w .fmul
  | 0x33 => .ok (.fma g (fld w 15 5) (fld w 10 5) (fld w 5 5) (fld w 0 5))
  | 0x34 => fmtSR w .fdiv
  | 0x35 => fmtSR1 w .fsqrt
  | 0x36 => zeros (!w.getLsbD 0) (code (Cc.ofCode? (fld w 13 4)) (.fcmp g (fld w 17 3) · (fld w 7 6) (fld w 1 6)))
  | 0x37 =>
    match ScvTy.ofCode? (fld w 5 3), ScvTy.ofCode? (fld w 2 3), Rm.ofCode? (fld w 0 2) with
    | some s, some d, some rm => .ok (.fcvt g (fld w 14 6) (fld w 8 6) s d rm)
    | _, _, _ => .error .resOpnd
  | 0x38 => zeros (fld w 0 9 == 0) (.ok (.movsa g (fld w 15 5) (fld w 9 6)))
  | 0x39 => zeros (fld w 0 9 == 0) (.ok (.movas g (fld w 14 6) (fld w 9 5)))
  | 0x3A => zeros (fld w 0 8 == 0) (.ok (.movsv g (.ofBit (w.getLsbD 19)) (fld w 14 5) (fld w 8 6)))
  | 0x3B => zeros (fld w 0 6 == 0) (.ok (.csrr g (fld w 14 6) (fld w 6 8)))
  | 0x3C =>
    let i := Instr.csrw g (fld w 14 6) (fld w 6 8)
    if i.flaw = some .illInsn then .error .illInsn else zeros (fld w 0 6 == 0) (.ok i)
  | 0x3D => zeros (fld w 0 6 == 0) (.ok (.semrd g (fld w 14 6) (fld w 6 8)))
  | _ => .error .illInsn

/-- Format VR (Table 6.9). -/
def fmtVR (w : Word32) (k : BitVec 5 → BitVec 5 → BitVec 5 → BitVec 5 → Instr) : Decoded :=
  .ok (k (fld w 15 5) (fld w 10 5) (fld w 5 5) (fld w 0 5))

/-- Format VR with vb = 0 (Table 6.9). -/
def fmtVR1 (w : Word32) (k : BitVec 5 → BitVec 5 → BitVec 5 → Instr) : Decoded :=
  zeros (fld w 5 5 == 0) (.ok (k (fld w 15 5) (fld w 10 5) (fld w 0 5)))

/-- The VA and VB map (Table 6.16); the slot supplies the file (R188). -/
def decodeV (u : VFile) (w : Word32) : Decoded :=
  let g := guardOf w
  let it := IntTy.ofCode (fld w 24 3)
  let ft := FpTy.ofCode? (fld w 24 3)
  match (fld w 27 5).toNat with
  | 0 =>
    match (fld w 24 3).toNat with
    | 0 => nopWord w
    | 1 => fmtVR w (.vand u g)
    | 2 => fmtVR w (.vor u g)
    | 3 => fmtVR w (.vxor u g)
    | 4 => fmtVR1 w (.vmov u g)
    | 5 => fmtVR w (.vsel u g)
    | 6 => .ok (.vsplat u g (fld w 15 5) (fld w 5 10) (fld w 0 5))
    | _ => zeros (fld w 10 5 == 0) (.ok (.vxf u g (fld w 15 5) (fld w 5 5) (fld w 0 5)))
  | 1 => fmtVR w (.vadd u g it)
  | 2 => fmtVR w (.vsub u g it)
  | 3 => fmtVR w (.vmul u g it)
  | 4 => fmtVR w (.vmulh u g it)
  | 5 => fmtVR w (.vmin u g it)
  | 6 => fmtVR w (.vmax u g it)
  | 7 => fmtVR w (.vshl u g it)
  | 8 => fmtVR w (.vshr u g it)
  | 9 => fmtVR w (.vsra u g it)
  | 10 => fmtVR1 w (.vabs u g it)
  | 11 => zeros (!w.getLsbD 0) (code (Cc.ofCode? (fld w 1 4)) (.vcmp u g it (fld w 15 5) (fld w 10 5) (fld w 5 5) ·))
  | 12 => .ok (.viota u g it (fld w 15 5) (fld w 5 10) (fld w 0 5))
  | 13 => fmtVR w (.vtrn u g it)
  | 14 => fmtVR w (.vperm u g it)
  | 15 => zeros (!w.getLsbD 0) (.ok (.vmovs u g it (fld w 14 6) (fld w 9 5) (fld w 1 8)))
  | 16 => tyCode ft fun t => fmtVR w (.vfadd u g t)
  | 17 => tyCode ft fun t => fmtVR w (.vfsub u g t)
  | 18 => tyCode ft fun t => fmtVR w (.vfmul u g t)
  | 19 => tyCode ft fun t => fmtVR w (.vfma u g t)
  | 20 => tyCode ft fun t => fmtVR w (.vfnma u g t)
  | 21 => tyCode ft fun t => fmtVR w (.vfmin u g t)
  | 22 => tyCode ft fun t => fmtVR w (.vfmax u g t)
  | 23 => tyCode ft fun t => fmtVR w (.vfsgn u g t)
  | 24 => tyCode ft fun t =>
      zeros (!w.getLsbD 0) (code (Cc.ofCode? (fld w 1 4)) (.vfcmp u g t (fld w 15 5) (fld w 10 5) (fld w 5 5) ·))
  | 25 => tyCode ft fun t =>
      if t = .f32 then code (Sfu.ofCode? (fld w 5 5)) (.vsfu u g · (fld w 15 5) (fld w 10 5) (fld w 0 5))
      else .error .illInsn
  | 26 => tyCode ft fun t => if t = .f32 then fmtVR1 w (.vred u g) else .error .illInsn
  | 27 => tyCode ft fun t => if t = .f32 then fmtVR w (.vcomb u g) else .error .illInsn
  | 28 => code (Rm.ofCode? (fld w 5 2))
      (.vcvt u g (.ofCode (fld w 24 3)) (.ofCode (fld w 7 3)) · (fld w 15 5) (fld w 10 5) (fld w 0 5))
  | 29 => tyCode ft fun t => fmtVR1 w (.vqnt u g t)
  | 30 => tyCode ft fun t => fmtVR1 w (.vdqnt u g t)
  | _ =>
    match (fld w 24 3).toNat with
    | 0 => zeros (!w.getLsbD 0) (.ok (.plogic u g (fld w 15 5) (fld w 10 5) (fld w 5 5) (fld w 1 4)))
    | 1 => zeros (fld w 0 6 == 0) (.ok (.pset u g (fld w 15 5) (fld w 6 9)))
    | 2 => zeros (fld w 0 12 == 0) (.ok (.vany u g (fld w 17 3) (fld w 12 5)))
    | 3 => zeros (fld w 0 12 == 0) (.ok (.vall u g (fld w 17 3) (fld w 12 5)))
    | _ => .error .illInsn

/-- Format MM of a product of MT code c (Table 6.10). -/
def fmtMM (w : Word32) (c : BitVec 3)
    (k : Guard → MatTy → BitVec 3 → BitVec 4 → BitVec 4 → BitVec 4 → BitVec 4 → Instr) : Decoded :=
  tyCode (MatTy.ofCode? c) fun t =>
    zeros (!w.getLsbD 0) (.ok (k (guardOf w) t (fld w 17 3) (fld w 13 4) (fld w 9 4) (fld w 5 4) (fld w 1 4)))

/-- The M-slot map (Table 6.17). -/
def decodeM (w : Word32) : Decoded :=
  let g := guardOf w
  match opOf w with
  | 0x00 => nopWord w
  | 0x01 => .ok (.mopen g (fld w 17 3) (fld w 12 5) (fld w 7 5) (fld w 4 3) (fld w 0 4))
  | 0x02 => zeros (fld w 0 17 == 0) (.ok (.mclose g (fld w 17 3)))
  | 0x03 => zeros (fld w 0 14 == 0) (.ok (.mcomb g (fld w 17 3) (fld w 14 3)))
  | 0x04 =>
    match FpTy.ofCode? (fld w 8 3), Rm.ofCode? (fld w 6 2) with
    | some t, some rm => zeros (fld w 0 6 == 0) (.ok (.mout g (fld w 15 5) (fld w 11 4) t rm))
    | _, _ => .error .resOpnd
  | 0x05 => zeros (fld w 0 8 == 0) (code (FpTy.ofCode? (fld w 8 3)) (.mlda g (fld w 15 5) (fld w 11 4) ·))
  | 0x06 => zeros (fld w 0 15 == 0) (.ok (.mscale g (w.getLsbD 19) (fld w 15 4)))
  | 0x07 => .ok (.mcfg g (fld w 0 20))
  | 0x08 => .ok (.mset g (fld w 16 4) (fld w 0 16))
  | 0x09 => .ok (.madd g (fld w 16 4) (fld w 0 16))
  | op =>
    if op / 8 = 2 then fmtMM w (fld w 24 3) .mma
    else if op / 8 = 3 then fmtMM w (fld w 24 3) .mmag
    else .error .illInsn

/-- The L-slot map (Table 6.18). -/
def decodeL (w : Word32) : Decoded :=
  let g := guardOf w
  let it := IntTy.ofCode (fld w 24 3)
  let f := VFile.ofBit (w.getLsbD 19)
  match opOf w with
  | 0x00 => nopWord w
  | 0x01 => .ok (.vld g f (fld w 14 5) (fld w 9 5) (fld w 0 9))
  | 0x02 => .ok (.vst g f (fld w 14 5) (fld w 9 5) (fld w 0 9))
  | 0x03 => zeros (fld w 0 4 == 0) (.ok (.vlds g f (fld w 14 5) (fld w 9 5) (fld w 4 5)))
  | 0x04 => zeros (fld w 0 4 == 0) (.ok (.vsts g f (fld w 14 5) (fld w 9 5) (fld w 4 5)))
  | 0x05 => .ok (.vldb g f (fld w 14 5) (fld w 9 5) (fld w 0 9))
  | 0x06 => .ok (.pld g (fld w 15 5) (fld w 10 5) (fld w 0 10))
  | 0x07 => .ok (.pst g (fld w 15 5) (fld w 10 5) (fld w 0 10))
  | 0x08 => zeros (fld w 0 5 == 0) (.ok (.aadd g (fld w 15 5) (fld w 10 5) (fld w 5 5)))
  | 0x09 => .ok (.aaddi g (fld w 15 5) (fld w 10 5) (fld w 0 10))
  | 0x0A => .ok (.aset g (fld w 15 5) (fld w 0 15))
  | 0x0B => .ok (.ald g (fld w 15 5) (fld w 10 5) (fld w 0 10))
  | 0x0C => .ok (.ast g (fld w 15 5) (fld w 10 5) (fld w 0 10))
  | op =>
    if op / 8 = 2 then zeros (fld w 0 4 == 0) (.ok (.vgth g it f (fld w 14 5) (fld w 9 5) (fld w 4 5)))
    else if op / 8 = 3 then zeros (fld w 0 4 == 0) (.ok (.vsct g it f (fld w 14 5) (fld w 9 5) (fld w 4 5)))
    else if op / 8 = 4 then .ok (.sld g it (fld w 14 6) (fld w 9 5) (fld w 0 9))
    else if op / 8 = 5 then .ok (.sst g it (fld w 14 6) (fld w 9 5) (fld w 0 9))
    else if op / 32 = 2 then
      code (Ord.ofCode? (fld w 0 3))
        (.latom g (.ofCode (fld w 27 2)) (.ofCode (fld w 24 3)) (fld w 14 6) (fld w 9 5) (fld w 3 6) ·)
    else .error .illInsn

/-- Format QC and NC with ax = 0 (Tables 6.12 and 6.13). -/
def fmtQC0 (w : Word32) (k : Guard → BitVec 5 → BitVec 5 → BitVec 5 → Instr) : Decoded :=
  zeros (fld w 0 5 == 0) (.ok (k (guardOf w) (fld w 15 5) (fld w 10 5) (fld w 5 5)))

/-- Format QC and NC (Tables 6.12 and 6.13). -/
def fmtQC (w : Word32) (k : Guard → BitVec 5 → BitVec 5 → BitVec 5 → BitVec 5 → Instr) : Decoded :=
  .ok (k (guardOf w) (fld w 15 5) (fld w 10 5) (fld w 5 5) (fld w 0 5))

/-- True for the opcodes 0x10 + 8 TA + OPC of the atomic rows (Tables 6.19 and 6.20). -/
def atomRow (op : Nat) : Bool := 0x10 ≤ op && op ≤ 0x2F

/-- The atomic rows start at 0x10, so their TA code is (OP - 0x10) div 8 (R142). -/
def atomTa (w : Word32) : BitVec 2 := BitVec.ofNat 2 ((opOf w - 0x10) / 8)

/-- Format QA and NA (Tables 6.12 and 6.13). -/
def fmtQA (w : Word32)
    (k : Guard → AtomTy → AtomOp → BitVec 5 → BitVec 5 → BitVec 6 → Ord → Instr) : Decoded :=
  zeros (!w.getLsbD 0) (code (Ord.ofCode? (fld w 1 3))
    (k (guardOf w) (.ofCode (atomTa w)) (.ofCode (fld w 24 3)) (fld w 15 5) (fld w 10 5) (fld w 4 6) ·))

/-- The Q-slot map (Table 6.19). -/
def decodeQ (w : Word32) : Decoded :=
  let g := guardOf w
  match opOf w with
  | 0x00 => nopWord w
  | 0x01 => fmtQC0 w .cpy
  | 0x02 => fmtQC w .cpy2
  | 0x03 => fmtQC0 w .cpyt
  | 0x04 => fmtQC0 w .cpylt
  | 0x05 => fmtQC0 w .cpya
  | 0x06 => zeros (fld w 10 5 == 0 && fld w 0 5 == 0) (.ok (.cpyz g (fld w 15 5) (fld w 5 5)))
  | 0x07 => fmtQC w .cpyg
  | 0x08 => zeros (fld w 0 15 == 0) (.ok (.cpyr g (fld w 15 5)))
  | 0x30 => zeros (fld w 0 4 == 0) (.ok (.atomFadd g (fld w 15 5) (fld w 10 5) (fld w 4 6)))
  | 0x38 => zeros (fld w 0 5 == 0) (.ok (.atomx g (fld w 15 5) (fld w 10 5) (fld w 5 5)))
  | op => if atomRow op then fmtQA w .atom else .error .illInsn

/-- The N-slot map (Table 6.20). -/
def decodeN (w : Word32) : Decoded :=
  let g := guardOf w
  match opOf w with
  | 0x00 => nopWord w
  | 0x01 => fmtQC0 w .rst
  | 0x02 => zeros (fld w 0 4 == 0) (.ok (.rsts g (fld w 15 5) (fld w 9 6) (fld w 4 5)))
  | 0x03 => fmtQC0 w .rcpy
  | 0x04 => fmtQC0 w .rget
  | 0x05 => zeros (fld w 0 4 == 0) (.ok (.rsig g (fld w 15 5) (fld w 7 8) (.ofCode (fld w 5 2)) (w.getLsbD 4)))
  | 0x06 => fmtQC w .mcast
  | op => if atomRow op then fmtQA w .ratom else .error .illInsn

/-- The fields of a slot word by the map of its slot, before the range checks of Instr.flaw. -/
def decodeFields (sl : Slot) (w : Word32) : Decoded :=
  match sl with
  | .B => decodeB w
  | .S => decodeS w
  | .VA => decodeV .va w
  | .VB => decodeV .vb w
  | .M => decodeM w
  | .L => decodeL w
  | .Q => decodeQ w
  | .N => decodeN w

/-- True when the map of a slot lists an opcode, a typed row with an admitted code (Tables 6.14 to 6.20). -/
def opListed (sl : Slot) (op : Nat) : Bool :=
  let within (lo hi : Nat) : Bool := lo ≤ op && op ≤ hi
  match sl with
  | .B => op ≤ 0x16
  | .S => op ≤ 0x13 || within 0x18 0x1E || within 0x20 0x29 || within 0x30 0x3D
  | .VA | .VB =>
    let r := op / 8
    let c := op % 8
    if r = 0 || r = 28 then true
    else if r ≤ 9 || r = 11 || r = 15 then c != 3 && c != 7
    else if r = 10 then c ≤ 2
    else if r ≤ 14 then 4 ≤ c && c ≤ 6
    else if r ≤ 24 then c ≤ 2
    else if r ≤ 27 then c = 0
    else if r ≤ 30 then 3 ≤ c && c ≤ 5
    else c ≤ 3
  | .M => op ≤ 9 || within 0x10 0x16 || within 0x18 0x1E
  | .L => op ≤ 0x0C || within 0x14 0x16 || within 0x1C 0x1E || within 0x20 0x27 || within 0x2C 0x2F || within 0x40 0x5F
  | .Q => op ≤ 8 || within 0x10 0x30 || op = 0x38
  | .N => op ≤ 6 || within 0x10 0x2F

/-- The instruction of a slot word, or its decode fault (R138). ILL_INSN goes before RES_OPND (R139). Total on every
word of every slot. -/
def decodeSlot (sl : Slot) (w : Word32) : Decoded :=
  if opListed sl (opOf w) then
    match decodeFields sl w with
    | .error f => .error f
    | .ok i =>
      match i.flaw with
      | some f => .error f
      | none => .ok i
  else .error .illInsn

/-! ### Bundles -/

/-- A 32-bit little-endian word from four bytes (R2). -/
def word32Of (b0 b1 b2 b3 : Byte) : Word32 := b3 ++ b2 ++ b1 ++ b0

/-- The four bytes of a word, lowest address first (R2). -/
def word32Bytes (w : Word32) : List Byte := [fld w 0 8, fld w 8 8, fld w 16 8, fld w 24 8]

/-- The slots in slot index order (Table 6.1). -/
def allSlots : List Slot := [.B, .S, .VA, .VB, .M, .L, .Q, .N]

/-- Slot index of Table 6.1. -/
def Slot.index : Slot → Nat
  | .B => 0
  | .S => 1
  | .VA => 2
  | .VB => 3
  | .M => 4
  | .L => 5
  | .Q => 6
  | .N => 7

/-- The slot words of the bytes of a bundle, in slot index order; bytes that are missing read as zero (R129, R148). -/
def bundleWords (bs : List Byte) : List Word32 :=
  allSlots.map fun sl =>
    let o := 4 * sl.index
    word32Of (bs.getD o 0) (bs.getD (o + 1) 0) (bs.getD (o + 2) 0) (bs.getD (o + 3) 0)

/-- The first slot, in slot index order, whose map admits a word. The word alone does not name its slot (R129):
the model's choice for a word shown without its position, assumption 4. -/
def firstSlot (w : Word32) : Option (Slot × Instr) :=
  allSlots.findSome? fun sl =>
    match decodeSlot sl w with
    | .ok i => some (sl, i)
    | .error _ => none

/-- The slot word of an instruction shown by its table bits: the bits above nbits are zero. -/
def tableWord (nbits w : Nat) : Word32 := BitVec.ofNat 32 (w % 2 ^ nbits)

/-- The instruction that the decoder reads from a table row's word: the word's bytes as the hardware stores them,
decoded in the first slot that admits it (assumption 4). -/
def decodeTableWord (nbits w : Nat) : Option Instr :=
  match word32Bytes (tableWord nbits w) with
  | [b0, b1, b2, b3] => (firstSlot (word32Of b0 b1 b2 b3)).map (·.2)
  | _ => none

/-! ### The encoder -/

/-- The opcode, guard and operand bits of a slot word (Table 6.2). -/
def slotWord (op : BitVec 8) (g : Guard) (opnd : BitVec 20) : Word32 :=
  op ++ BitVec.ofBool g.neg ++ g.flag ++ opnd

/-- The slot of a vector unit. -/
def VFile.slot : VFile → Slot
  | .va => .VA
  | .vb => .VB

/-- Opcode 0x10 + 8 TA + OPC (R142). -/
def atomOpcode (t : AtomTy) (op : AtomOp) : BitVec 8 := 0x10#8 + (0#3 ++ t.code ++ op.code)

/-- The slot and the word of a slot instruction; an event has no word. NOP is given for the B slot and is the zero
word in every slot (R129). -/
def encode (i : Instr) : Option (Slot × Word32) :=
  match i with
  | .nop => some (.B, 0)
  | .xim t i => some (.B, 0x01#8 ++ 0#1 ++ t ++ i)
  | .bpre g bd off => some (.B, slotWord 0x02 g (bd ++ off))
  | .bpres g bd sa => some (.B, slotWord 0x03 g (bd ++ sa ++ 0#11))
  | .br g bt => some (.B, slotWord 0x04 g (bt ++ 0#17))
  | .call g bt => some (.B, slotWord 0x05 g (bt ++ 0#17))
  | .ret g => some (.B, slotWord 0x06 g (0#20))
  | .loop g len cnt => some (.B, slotWord 0x07 g (len ++ 0#1 ++ cnt))
  | .loopReg g len sa => some (.B, slotWord 0x07 g (len ++ 1#1 ++ sa ++ 0#7))
  | .repm g n => some (.B, slotWord 0x08 g (0#1 ++ n))
  | .repmReg g sa => some (.B, slotWord 0x08 g (1#1 ++ sa ++ 0#13))
  | .wait g s n a => some (.B, slotWord 0x09 g (s ++ n ++ BitVec.ofBool a ++ 0#3))
  | .waitd g s n a => some (.B, slotWord 0x0A g (s ++ n ++ BitVec.ofBool a ++ 0#3))
  | .sig g s i sc r => some (.B, slotWord 0x0B g (s ++ i ++ sc.code ++ BitVec.ofBool r ++ 0#1))
  | .semset g s v => some (.B, slotWord 0x0C g (s ++ v))
  | .evwait g m => some (.B, slotWord 0x0D g (0#4 ++ m))
  | .evclr g m => some (.B, slotWord 0x0E g (0#4 ++ m))
  | .fence g sc => some (.B, slotWord 0x0F g (0#3 ++ sc.code ++ 0#15))
  | .fni g ft sc => some (.B, slotWord 0x10 g (ft ++ sc.code ++ 0#15))
  | .fnw g ft => some (.B, slotWord 0x11 g (ft ++ 0#17))
  | .trap g c => some (.B, slotWord 0x12 g (0#4 ++ c))
  | .tret g sv => some (.B, slotWord 0x13 g (sv ++ 0#14))
  | .sys g c => some (.B, slotWord 0x14 g (0#4 ++ c))
  | .yield g => some (.B, slotWord 0x15 g (0#20))
  | .exit g => some (.B, slotWord 0x16 g (0#20))
  | .add g sd sa sb => some (.S, slotWord 0x01 g (sd ++ sa ++ sb ++ 0#2))
  | .sub g sd sa sb => some (.S, slotWord 0x02 g (sd ++ sa ++ sb ++ 0#2))
  | .mul g sd sa sb => some (.S, slotWord 0x03 g (sd ++ sa ++ sb ++ 0#2))
  | .mulh g sd sa sb => some (.S, slotWord 0x04 g (sd ++ sa ++ sb ++ 0#2))
  | .mulhz g sd sa sb => some (.S, slotWord 0x05 g (sd ++ sa ++ sb ++ 0#2))
  | .div g sd sa sb => some (.S, slotWord 0x06 g (sd ++ sa ++ sb ++ 0#2))
  | .divz g sd sa sb => some (.S, slotWord 0x07 g (sd ++ sa ++ sb ++ 0#2))
  | .rem g sd sa sb => some (.S, slotWord 0x08 g (sd ++ sa ++ sb ++ 0#2))
  | .remz g sd sa sb => some (.S, slotWord 0x09 g (sd ++ sa ++ sb ++ 0#2))
  | .and g sd sa sb => some (.S, slotWord 0x0A g (sd ++ sa ++ sb ++ 0#2))
  | .or g sd sa sb => some (.S, slotWord 0x0B g (sd ++ sa ++ sb ++ 0#2))
  | .xor g sd sa sb => some (.S, slotWord 0x0C g (sd ++ sa ++ sb ++ 0#2))
  | .shl g sd sa sb => some (.S, slotWord 0x0D g (sd ++ sa ++ sb ++ 0#2))
  | .shr g sd sa sb => some (.S, slotWord 0x0E g (sd ++ sa ++ sb ++ 0#2))
  | .sra g sd sa sb => some (.S, slotWord 0x0F g (sd ++ sa ++ sb ++ 0#2))
  | .min g sd sa sb => some (.S, slotWord 0x10 g (sd ++ sa ++ sb ++ 0#2))
  | .max g sd sa sb => some (.S, slotWord 0x11 g (sd ++ sa ++ sb ++ 0#2))
  | .minz g sd sa sb => some (.S, slotWord 0x12 g (sd ++ sa ++ sb ++ 0#2))
  | .maxz g sd sa sb => some (.S, slotWord 0x13 g (sd ++ sa ++ sb ++ 0#2))
  | .addi g sd sa i => some (.S, slotWord 0x18 g (sd ++ sa ++ i))
  | .andi g sd sa i => some (.S, slotWord 0x19 g (sd ++ sa ++ i))
  | .ori g sd sa i => some (.S, slotWord 0x1A g (sd ++ sa ++ i))
  | .xori g sd sa i => some (.S, slotWord 0x1B g (sd ++ sa ++ i))
  | .shli g sd sa i => some (.S, slotWord 0x1C g (sd ++ sa ++ i))
  | .shri g sd sa i => some (.S, slotWord 0x1D g (sd ++ sa ++ i))
  | .srai g sd sa i => some (.S, slotWord 0x1E g (sd ++ sa ++ i))
  | .cmp g fd cc sa sb => some (.S, slotWord 0x20 g (fd ++ cc.code ++ sa ++ sb ++ 0#1))
  | .cmpi g fd cc sa i => some (.S, slotWord 0x21 g (fd ++ cc.code ++ sa ++ i))
  | .flop g fd fa fb tt => some (.S, slotWord 0x22 g (fd ++ fa ++ fb ++ tt ++ 0#7))
  | .sel g sd sa sb fc => some (.S, slotWord 0x23 g (sd ++ sa ++ sb ++ fc))
  | .movi g sd i => some (.S, slotWord 0x24 g (sd ++ i))
  | .movhi g sd i => some (.S, slotWord 0x25 g (sd ++ i))
  | .clz g sd sa => some (.S, slotWord 0x26 g (sd ++ sa ++ 0#8))
  | .popc g sd sa => some (.S, slotWord 0x27 g (sd ++ sa ++ 0#8))
  | .bfx g sd sa sb => some (.S, slotWord 0x28 g (sd ++ sa ++ sb ++ 0#2))
  | .bfi g sd sa sb => some (.S, slotWord 0x29 g (sd ++ sa ++ sb ++ 0#2))
  | .fadd g sd sa sb => some (.S, slotWord 0x30 g (sd ++ sa ++ sb ++ 0#2))
  | .fsub g sd sa sb => some (.S, slotWord 0x31 g (sd ++ sa ++ sb ++ 0#2))
  | .fmul g sd sa sb => some (.S, slotWord 0x32 g (sd ++ sa ++ sb ++ 0#2))
  | .fma g sd sa sb sc => some (.S, slotWord 0x33 g (sd ++ sa ++ sb ++ sc))
  | .fdiv g sd sa sb => some (.S, slotWord 0x34 g (sd ++ sa ++ sb ++ 0#2))
  | .fsqrt g sd sa => some (.S, slotWord 0x35 g (sd ++ sa ++ 0#8))
  | .fcmp g fd cc sa sb => some (.S, slotWord 0x36 g (fd ++ cc.code ++ sa ++ sb ++ 0#1))
  | .fcvt g sd sa s d rm => some (.S, slotWord 0x37 g (sd ++ sa ++ s.code ++ d.code ++ rm.code))
  | .movsa g ad sa => some (.S, slotWord 0x38 g (ad ++ sa ++ 0#9))
  | .movas g sd aa => some (.S, slotWord 0x39 g (sd ++ aa ++ 0#9))
  | .movsv g vf vd sa => some (.S, slotWord 0x3A g (vf.bit ++ vd ++ sa ++ 0#8))
  | .csrr g sd n => some (.S, slotWord 0x3B g (sd ++ n ++ 0#6))
  | .csrw g sa n => some (.S, slotWord 0x3C g (sa ++ n ++ 0#6))
  | .semrd g sd n => some (.S, slotWord 0x3D g (sd ++ n ++ 0#6))
  | .vand u g vd va vb pg => some (u.slot, slotWord 0x01 g (vd ++ va ++ vb ++ pg))
  | .vor u g vd va vb pg => some (u.slot, slotWord 0x02 g (vd ++ va ++ vb ++ pg))
  | .vxor u g vd va vb pg => some (u.slot, slotWord 0x03 g (vd ++ va ++ vb ++ pg))
  | .vsel u g vd va vb pg => some (u.slot, slotWord 0x05 g (vd ++ va ++ vb ++ pg))
  | .vmov u g vd va pg => some (u.slot, slotWord 0x04 g (vd ++ va ++ 0#5 ++ pg))
  | .vsplat u g vd i pg => some (u.slot, slotWord 0x06 g (vd ++ i ++ pg))
  | .vxf u g vd vs pg => some (u.slot, slotWord 0x07 g (vd ++ 0#5 ++ vs ++ pg))
  | .vadd u g t vd va vb pg => some (u.slot, slotWord (1#5 ++ t.code) g (vd ++ va ++ vb ++ pg))
  | .vsub u g t vd va vb pg => some (u.slot, slotWord (2#5 ++ t.code) g (vd ++ va ++ vb ++ pg))
  | .vmul u g t vd va vb pg => some (u.slot, slotWord (3#5 ++ t.code) g (vd ++ va ++ vb ++ pg))
  | .vmulh u g t vd va vb pg => some (u.slot, slotWord (4#5 ++ t.code) g (vd ++ va ++ vb ++ pg))
  | .vmin u g t vd va vb pg => some (u.slot, slotWord (5#5 ++ t.code) g (vd ++ va ++ vb ++ pg))
  | .vmax u g t vd va vb pg => some (u.slot, slotWord (6#5 ++ t.code) g (vd ++ va ++ vb ++ pg))
  | .vshl u g t vd va vb pg => some (u.slot, slotWord (7#5 ++ t.code) g (vd ++ va ++ vb ++ pg))
  | .vshr u g t vd va vb pg => some (u.slot, slotWord (8#5 ++ t.code) g (vd ++ va ++ vb ++ pg))
  | .vsra u g t vd va vb pg => some (u.slot, slotWord (9#5 ++ t.code) g (vd ++ va ++ vb ++ pg))
  | .vabs u g t vd va pg => some (u.slot, slotWord (10#5 ++ t.code) g (vd ++ va ++ 0#5 ++ pg))
  | .vcmp u g t pd va vb cc => some (u.slot, slotWord (11#5 ++ t.code) g (pd ++ va ++ vb ++ cc.code ++ 0#1))
  | .viota u g t vd i pg => some (u.slot, slotWord (12#5 ++ t.code) g (vd ++ i ++ pg))
  | .vtrn u g t vd va vb pg => some (u.slot, slotWord (13#5 ++ t.code) g (vd ++ va ++ vb ++ pg))
  | .vperm u g t vd va vb pg => some (u.slot, slotWord (14#5 ++ t.code) g (vd ++ va ++ vb ++ pg))
  | .vmovs u g t sd va lane => some (u.slot, slotWord (15#5 ++ t.code) g (sd ++ va ++ lane ++ 0#1))
  | .vfadd u g t vd va vb pg => some (u.slot, slotWord (16#5 ++ t.code) g (vd ++ va ++ vb ++ pg))
  | .vfsub u g t vd va vb pg => some (u.slot, slotWord (17#5 ++ t.code) g (vd ++ va ++ vb ++ pg))
  | .vfmul u g t vd va vb pg => some (u.slot, slotWord (18#5 ++ t.code) g (vd ++ va ++ vb ++ pg))
  | .vfma u g t vd va vb pg => some (u.slot, slotWord (19#5 ++ t.code) g (vd ++ va ++ vb ++ pg))
  | .vfnma u g t vd va vb pg => some (u.slot, slotWord (20#5 ++ t.code) g (vd ++ va ++ vb ++ pg))
  | .vfmin u g t vd va vb pg => some (u.slot, slotWord (21#5 ++ t.code) g (vd ++ va ++ vb ++ pg))
  | .vfmax u g t vd va vb pg => some (u.slot, slotWord (22#5 ++ t.code) g (vd ++ va ++ vb ++ pg))
  | .vfsgn u g t vd va vb pg => some (u.slot, slotWord (23#5 ++ t.code) g (vd ++ va ++ vb ++ pg))
  | .vfcmp u g t pd va vb cc => some (u.slot, slotWord (24#5 ++ t.code) g (pd ++ va ++ vb ++ cc.code ++ 0#1))
  | .vsfu u g fn vd va pg => some (u.slot, slotWord 0xC8 g (vd ++ va ++ fn.code ++ pg))
  | .vred u g vd va pg => some (u.slot, slotWord 0xD0 g (vd ++ va ++ 0#5 ++ pg))
  | .vcomb u g vd va vb pg => some (u.slot, slotWord 0xD8 g (vd ++ va ++ vb ++ pg))
  | .vcvt u g d s rm vd va pg => some (u.slot, slotWord (28#5 ++ d.code) g (vd ++ va ++ s.code ++ rm.code ++ pg))
  | .vqnt u g t vd va pg => some (u.slot, slotWord (29#5 ++ t.code) g (vd ++ va ++ 0#5 ++ pg))
  | .vdqnt u g t vd va pg => some (u.slot, slotWord (30#5 ++ t.code) g (vd ++ va ++ 0#5 ++ pg))
  | .plogic u g pd pa pb tt => some (u.slot, slotWord 0xF8 g (pd ++ pa ++ pb ++ tt ++ 0#1))
  | .pset u g pd n => some (u.slot, slotWord 0xF9 g (pd ++ n ++ 0#6))
  | .vany u g fd pa => some (u.slot, slotWord 0xFA g (fd ++ pa ++ 0#12))
  | .vall u g fd pa => some (u.slot, slotWord 0xFB g (fd ++ pa ++ 0#12))
  | .mopen g ch h d cs mk => some (.M, slotWord 0x01 g (ch ++ h ++ d ++ cs ++ mk))
  | .mclose g ch => some (.M, slotWord 0x02 g (ch ++ 0#17))
  | .mcomb g ch chb => some (.M, slotWord 0x03 g (ch ++ chb ++ 0#14))
  | .mout g pl mx t rm => some (.M, slotWord 0x04 g (pl ++ mx ++ t.code ++ rm.code ++ 0#6))
  | .mlda g pl mx t => some (.M, slotWord 0x05 g (pl ++ mx ++ t.code ++ 0#8))
  | .mscale g tab mx => some (.M, slotWord 0x06 g (BitVec.ofBool tab ++ mx ++ 0#15))
  | .mcfg g cfg => some (.M, slotWord 0x07 g (cfg))
  | .mset g md i => some (.M, slotWord 0x08 g (md ++ i))
  | .madd g md i => some (.M, slotWord 0x09 g (md ++ i))
  | .mma g t ch mx my ms mt => some (.M, slotWord (2#5 ++ t.code) g (ch ++ mx ++ my ++ ms ++ mt ++ 0#1))
  | .mmag g t ch mx my ms mt => some (.M, slotWord (3#5 ++ t.code) g (ch ++ mx ++ my ++ ms ++ mt ++ 0#1))
  | .vld g f v aa o => some (.L, slotWord 0x01 g (f.bit ++ v ++ aa ++ o))
  | .vst g f v aa o => some (.L, slotWord 0x02 g (f.bit ++ v ++ aa ++ o))
  | .vldb g f v aa o => some (.L, slotWord 0x05 g (f.bit ++ v ++ aa ++ o))
  | .vlds g f v aa ax => some (.L, slotWord 0x03 g (f.bit ++ v ++ aa ++ ax ++ 0#4))
  | .vsts g f v aa ax => some (.L, slotWord 0x04 g (f.bit ++ v ++ aa ++ ax ++ 0#4))
  | .pld g pd aa o => some (.L, slotWord 0x06 g (pd ++ aa ++ o))
  | .pst g pd aa o => some (.L, slotWord 0x07 g (pd ++ aa ++ o))
  | .aadd g ad aa ab => some (.L, slotWord 0x08 g (ad ++ aa ++ ab ++ 0#5))
  | .aaddi g ad aa i => some (.L, slotWord 0x09 g (ad ++ aa ++ i))
  | .aset g ad i => some (.L, slotWord 0x0A g (ad ++ i))
  | .ald g ad aa o => some (.L, slotWord 0x0B g (ad ++ aa ++ o))
  | .ast g ad aa o => some (.L, slotWord 0x0C g (ad ++ aa ++ o))
  | .vgth g t f v aa vx => some (.L, slotWord (2#5 ++ t.code) g (f.bit ++ v ++ aa ++ vx ++ 0#4))
  | .vsct g t f v aa vx => some (.L, slotWord (3#5 ++ t.code) g (f.bit ++ v ++ aa ++ vx ++ 0#4))
  | .sld g t sd aa o => some (.L, slotWord (4#5 ++ t.code) g (sd ++ aa ++ o))
  | .sst g t sd aa o => some (.L, slotWord (5#5 ++ t.code) g (sd ++ aa ++ o))
  | .latom g t op sd aa sb ord => some (.L, slotWord (2#3 ++ t.code ++ op.code) g (sd ++ aa ++ sb ++ ord.code))
  | .cpy g ad src ac => some (.Q, slotWord 0x01 g (ad ++ src ++ ac ++ 0#5))
  | .cpyt g ad src ac => some (.Q, slotWord 0x03 g (ad ++ src ++ ac ++ 0#5))
  | .cpylt g ad src ac => some (.Q, slotWord 0x04 g (ad ++ src ++ ac ++ 0#5))
  | .cpya g ad src ac => some (.Q, slotWord 0x05 g (ad ++ src ++ ac ++ 0#5))
  | .cpy2 g ad src ac ax => some (.Q, slotWord 0x02 g (ad ++ src ++ ac ++ ax))
  | .cpyg g ad src ac ax => some (.Q, slotWord 0x07 g (ad ++ src ++ ac ++ ax))
  | .cpyz g ad ac => some (.Q, slotWord 0x06 g (ad ++ 0#5 ++ ac ++ 0#5))
  | .cpyr g ar => some (.Q, slotWord 0x08 g (ar ++ 0#15))
  | .atom g t op aa ac sv ord => some (.Q, slotWord (atomOpcode t op) g (aa ++ ac ++ sv ++ ord.code ++ 0#1))
  | .atomFadd g aa ac sv => some (.Q, slotWord 0x30 g (aa ++ ac ++ sv ++ 0#4))
  | .atomx g aa ar ac => some (.Q, slotWord 0x38 g (aa ++ ar ++ ac ++ 0#5))
  | .rst g ad src ac => some (.N, slotWord 0x01 g (ad ++ src ++ ac ++ 0#5))
  | .rcpy g ad src ac => some (.N, slotWord 0x03 g (ad ++ src ++ ac ++ 0#5))
  | .rget g ad src ac => some (.N, slotWord 0x04 g (ad ++ src ++ ac ++ 0#5))
  | .rsts g ar sv ac => some (.N, slotWord 0x02 g (ar ++ sv ++ ac ++ 0#4))
  | .rsig g ar i sc r => some (.N, slotWord 0x05 g (ar ++ i ++ sc.code ++ BitVec.ofBool r ++ 0#4))
  | .mcast g ad src ac ax => some (.N, slotWord 0x06 g (ad ++ src ++ ac ++ ax))
  | .ratom g t op aa ac sv ord => some (.N, slotWord (atomOpcode t op) g (aa ++ ac ++ sv ++ ord.code ++ 0#1))
  | _ => none

end Sys2Proof
end

