-- ==== Sys2Proof/Machine/Bits.lean ====
section
/-! DEFINITION. Bit and byte helpers of the pseudocode (R2, R8, R10): little-endian bytes, sign and zero extension,
clamping, and whole square roots. -/
namespace Sys2Proof

/-- The number that little-endian bytes hold (R2). -/
def leNat : List Byte → Nat
  | [] => 0
  | b :: bs => b.toNat + 256 * leNat bs

/-- The n little-endian bytes of a number modulo 2^(8n) (R2). -/
def leBytes : Nat → Nat → List Byte
  | 0, _ => []
  | n + 1, v => BitVec.ofNat 8 v :: leBytes n (v / 256)

/-- Bytes lo to lo + n - 1 of a record; missing bytes read as zero. -/
def recField (bs : List Byte) (lo n : Nat) : Nat := leNat ((bs.drop lo).take n)

/-- Bits [lo + n - 1 : lo] of a number. -/
def bitsOf (v lo n : Nat) : Nat := v / 2 ^ lo % 2 ^ n

/-- True when any bit of [hi : lo] is set. -/
def anyBits (v lo n : Nat) : Bool := bitsOf v lo n != 0

/-- sext(v, n) of Table 0.3: the low n bits of v read as two's complement. -/
def sextInt (v n : Nat) : Int :=
  let x := v % 2 ^ n
  if 2 * x < 2 ^ n then x else (x : Int) - 2 ^ n

/-- The code of an integer in n bits, two's complement (R8). -/
def wrap (v : Int) (n : Nat) : Nat := (v % (2 ^ n : Int)).toNat

/-- sat(v, lo, hi) of Table 0.3. -/
def satInt (v lo hi : Int) : Int := if v < lo then lo else if hi < v then hi else v

/-- The register of a bit field, of the given width: lanes of width w, element i (R188). -/
def el (v : VReg) (i w : Nat) : Nat := (v.toNat / 2 ^ (i * w)) % 2 ^ w

/-- A 2048-bit register from elements of width w, element 0 first (R188). -/
def ofEls (w : Nat) : List Nat → Nat
  | [] => 0
  | x :: xs => x % 2 ^ w + 2 ^ w * ofEls w xs

/-- A vector register from elements of width w (R188). -/
def vecOf (w : Nat) (xs : List Nat) : VReg := BitVec.ofNat 2048 (ofEls w xs)

/-- Floor of the base 2 logarithm; 0 for 0. -/
def log2Nat (n : Nat) : Nat := Nat.log2 n

/-- One step of the square root by digits: r is the root of the bits above, k bits are left. -/
def isqrtGo (n : Nat) : Nat → Nat → Nat
  | 0, r => r
  | k + 1, r =>
    let c := r + 2 ^ k
    isqrtGo n k (if c * c ≤ n then c else r)

/-- Floor of the square root. -/
def isqrt (n : Nat) : Nat := isqrtGo n (log2Nat n / 2 + 1) 0

/-- The list of the first n numbers, mapped. -/
def tabulate {α : Type} (n : Nat) (f : Nat → α) : List α := (List.range n).map f

/-- Replace element i of a list, if it has one. -/
def setAt {α : Type} (xs : List α) (i : Nat) (x : α) : List α := xs.set i x

/-- Change element i of a list, if it has one. -/
def modAt {α : Type} (xs : List α) (i : Nat) (f : α → α) : List α := xs.modify i f

end Sys2Proof
end

