-- ==== Sys2Proof/Machine/Num.lean ====
section
/-! DEFINITION. Number formats, rounding, exception flags and the canonical tree (R108 to R128, R335). A finite value
is kept exactly, as a sign, a whole number and a power of two, until the one rounding of an operation (R8). -/
namespace Sys2Proof

/-- An exact real, an infinity or NaN (R108, R114). fin neg m e stands for (-1)^neg * m * 2^e; zero keeps its sign. -/
inductive Fv where
  | nan
  | inf (neg : Bool)
  | fin (neg : Bool) (m : Nat) (e : Int)
deriving DecidableEq, Repr

/-- The five sticky exception flags in the order NV, DZ, OF, UF, NX, bit 4 to bit 0, as FAULT[63:59] holds them (R333, R335). -/
abbrev Flags := BitVec 5

namespace Flags
/-- Invalid operation. -/
def nv : Flags := 0b10000
/-- Division by zero. -/
def dz : Flags := 0b01000
/-- Overflow. -/
def oflow : Flags := 0b00100
/-- Underflow. -/
def uflow : Flags := 0b00010
/-- Inexact. -/
def nx : Flags := 0b00001
/-- The flags of a condition. -/
def when (c : Bool) (f : Flags) : Flags := if c then f else 0
end Flags

/-! ### Formats (Table 5.1) -/

/-- Width of a format. -/
def FpTy.width : FpTy → Nat
  | .f32 => 32
  | .f16 | .bf16 => 16
  | .e4m3 | .e5m2 => 8
  | .e2m1 => 4

/-- Fraction bits of a format. -/
def FpTy.frac : FpTy → Nat
  | .f32 => 23
  | .f16 => 10
  | .bf16 => 7
  | .e5m2 => 2
  | .e4m3 => 3
  | .e2m1 => 1

/-- Exponent bias of a format. -/
def FpTy.bias : FpTy → Nat
  | .f32 | .bf16 => 127
  | .f16 | .e5m2 => 15
  | .e4m3 => 7
  | .e2m1 => 1

/-- The code of the largest finite magnitude. -/
def FpTy.maxCode : FpTy → Nat
  | .f32 => 0x7F7F_FFFF
  | .f16 => 0x7BFF
  | .bf16 => 0x7F7F
  | .e5m2 => 0x7B
  | .e4m3 => 0x7E
  | .e2m1 => 0x7

/-- The code of +infinity, for the formats that have one. -/
def FpTy.infCode : FpTy → Nat
  | .f32 => 0x7F80_0000
  | .f16 => 0x7C00
  | .bf16 => 0x7F80
  | .e5m2 => 0x7C
  | .e4m3 => 0x7E
  | .e2m1 => 0x7

/-- The canonical NaN of a format (R110); E2M1 has none, and a NaN converted to it gives +0 (R114). -/
def FpTy.nanCode : FpTy → Nat
  | .f32 => 0x7FC0_0000
  | .f16 => 0x7E00
  | .bf16 => 0x7FC0
  | .e5m2 => 0x7E
  | .e4m3 => 0x7F
  | .e2m1 => 0

/-- True for the formats with infinities (Table 5.1). -/
def FpTy.hasInf : FpTy → Bool
  | .e4m3 | .e2m1 => false
  | _ => true

/-- Exponent of one unit of the last place of the subnormals. -/
def FpTy.qmin (t : FpTy) : Int := 1 - (t.bias : Int) - t.frac

/-- A code with its sign bit. -/
def FpTy.signed (t : FpTy) (neg : Bool) (mag : Nat) : Nat := if neg then mag + 2 ^ (t.width - 1) else mag

/-- val(fmt, b) of R110: the code b of format t read as an exact value. -/
def FpTy.val (t : FpTy) (b : Nat) : Fv :=
  let neg := bitsOf b (t.width - 1) 1 = 1
  let mag := b % 2 ^ (t.width - 1)
  let e := mag / 2 ^ t.frac
  let f := mag % 2 ^ t.frac
  if t.hasInf && mag = t.infCode then .inf neg
  else if t.hasInf && t.infCode < mag then .nan
  else if t = .e4m3 && mag = 0x7F then .nan
  else if e = 0 then .fin neg f t.qmin
  else .fin neg (2 ^ t.frac + f) (t.qmin + (e - 1 : Int))

/-! ### Rounding (R113 to R115) -/

/-- How the one rounding of an operation is made; SR carries its 32-bit draw (R115). -/
inductive Round where
  | rne | rtz
  | sr (u : Nat)
deriving DecidableEq, Repr

/-- Rounds num / den to a whole number. sticky says that the true value lies above num / den by less than one part
of den. Gives the whole number and whether the rounding was inexact. -/
def roundQuot (mode : Round) (num den : Nat) (sticky : Bool) : Nat × Bool :=
  let u := num / den
  let r := num % den
  let inexact := r != 0 || sticky
  let up :=
    match mode with
    | .rtz => false
    | .rne => den < 2 * r || (2 * r = den && (sticky || u % 2 = 1))
    | .sr d => r != 0 && d < r * 2 ^ 32 / den
  (if up then u + 1 else u, inexact)

/-- Splits m * 2^(e - q) into a numerator and a power of two under it. -/
def scaleTo (m : Nat) (e q : Int) : Nat × Nat :=
  if q ≤ e then (m * 2 ^ (e - q).toNat, 1) else (m, 2 ^ (q - e).toNat)

/-- overflow(fmt, sign, mode, isinf) of R114. -/
def overflowCode (t : FpTy) (neg : Bool) (mode : Round) (satf8 isInf : Bool) : Nat :=
  if t = .e2m1 then t.signed neg t.maxCode
  else if mode = .rtz && !isInf then t.signed neg t.maxCode
  else if t = .e4m3 then (if satf8 then 0x7F else t.signed neg t.maxCode)
  else if t = .e5m2 && !satf8 then t.signed neg t.maxCode
  else t.signed neg t.infCode

/-- Rounds a finite magnitude m * 2^e (plus a little when sticky) into format t. The code of the magnitude is
(q - qmin) * 2^F + u for u units of 2^q, with the exponent unbounded above (R114); it exceeds maxCode exactly when the
rounded value exceeds the largest finite. Flags by R335. -/
def roundFin (t : FpTy) (mode : Round) (satf8 : Bool) (neg : Bool) (m : Nat) (e : Int) (sticky : Bool) : Nat × Flags :=
  if m = 0 then (t.signed neg 0, 0)
  else
    let top : Int := e + log2Nat m
    let q := max (top - t.frac) t.qmin
    let nd := scaleTo m e q
    let r := roundQuot mode nd.1 nd.2 sticky
    let mag := (q - t.qmin).toNat * 2 ^ t.frac + r.1
    let tiny : Bool := top < 1 - (t.bias : Int)
    if t.maxCode < mag then
      (overflowCode t neg mode satf8 false,
        Flags.oflow ||| Flags.nx ||| Flags.when (decide (t = .e4m3) && satf8 && mode != .rtz) Flags.nv)
    else (t.signed neg mag, Flags.when (tiny && r.2) Flags.uflow ||| Flags.when r.2 Flags.nx)

/-- cvt(x, fmt, mode) of R114, with the flags of R335. -/
def cvtCode (t : FpTy) (mode : Round) (satf8 : Bool) (x : Fv) : Nat × Flags :=
  match x with
  | .nan => (t.nanCode, 0)
  | .inf neg =>
    (overflowCode t neg mode satf8 true, Flags.when (!t.hasInf || (t = .e5m2 && !satf8)) Flags.nv)
  | .fin neg m e => roundFin t mode satf8 neg m e false

/-- An exact value rounded to an integer by RNE or RTZ (R183, R205). Infinities and NaN have no integer. -/
def roundInt (mode : Round) (neg : Bool) (m : Nat) (e : Int) : Int × Bool :=
  let nd := scaleTo m e 0
  let r := roundQuot mode nd.1 nd.2 false
  (if neg then -(r.1 : Int) else r.1, r.2)

/-- Conversion to an integer in lo to hi: NaN gives 0, other values saturate (R183, R205); NV for NaN and for a value
out of range, NX for a rounded one (R335). -/
def cvtInt (mode : Round) (lo hi : Int) (x : Fv) : Int × Flags :=
  match x with
  | .nan => (0, Flags.nv)
  | .inf neg => (if neg then lo else hi, Flags.nv)
  | .fin neg m e =>
    let r := roundInt mode neg m e
    if r.1 < lo then (lo, Flags.nv) else if hi < r.1 then (hi, Flags.nv) else (r.1, Flags.when r.2 Flags.nx)

/-- An integer as an exact value; zero is +0. -/
def Fv.ofInt (v : Int) : Fv := .fin (v < 0) v.natAbs 0

/-! ### Exact arithmetic (R182, R193) -/

/-- Negation of an exact value. -/
def Fv.neg : Fv → Fv
  | .nan => .nan
  | .inf n => .inf (!n)
  | .fin n m e => .fin (!n) m e

/-- The signed whole number of a finite value in units of 2^q, for q at most its exponent. -/
def finInt (n : Bool) (m : Nat) (e q : Int) : Int :=
  let v : Int := m * 2 ^ (e - q).toNat
  if n then -v else v

/-- Exact sum. A zero sum is -0 only when both terms are zeros with sign - (zsign of R193). -/
def Fv.add (a b : Fv) : Fv :=
  match a, b with
  | .nan, _ => .nan
  | _, .nan => .nan
  | .inf x, .inf y => if x = y then .inf x else .nan
  | .inf x, .fin .. => .inf x
  | .fin .., .inf y => .inf y
  | .fin xn xm xe, .fin yn ym ye =>
    let q := min xe ye
    let s := finInt xn xm xe q + finInt yn ym ye q
    if s = 0 then .fin (xn && yn && xm = 0 && ym = 0) 0 0 else .fin (s < 0) s.natAbs q

/-- Exact product. Infinity times zero is NaN. -/
def Fv.mul (a b : Fv) : Fv :=
  match a, b with
  | .nan, _ => .nan
  | _, .nan => .nan
  | .inf x, .inf y => .inf (x != y)
  | .inf x, .fin y m _ => if m = 0 then .nan else .inf (x != y)
  | .fin x m _, .inf y => if m = 0 then .nan else .inf (x != y)
  | .fin x m e, .fin y n f => .fin (x != y) (m * n) (e + f)

/-- True for NaN. -/
def Fv.isNan : Fv → Bool
  | .nan => true
  | _ => false

/-- True for a zero. -/
def Fv.isZero : Fv → Bool
  | .fin _ m _ => m = 0
  | _ => false

/-- True for a non-zero finite value. -/
def Fv.isFinNz : Fv → Bool
  | .fin _ m _ => m != 0
  | _ => false

/-- NV of an arithmetic result: NaN from operands that are not NaN (R335). -/
def nvFlag (args : List Fv) (r : Fv) : Flags := Flags.when (r.isNan && !args.any Fv.isNan) Flags.nv

/-- Rounds the exact result r of args into format t. -/
def arith (t : FpTy) (mode : Round) (args : List Fv) (r : Fv) : Nat × Flags :=
  let c := cvtCode t mode false r
  (c.1, c.2 ||| nvFlag args r)

/-- Compares exact values that are not NaN: -1, 0 or 1; +0 equals -0. -/
def Fv.cmp (a b : Fv) : Int :=
  match a, b with
  | .inf x, .inf y => if x = y then 0 else if x then -1 else 1
  | .inf x, _ => if x then -1 else 1
  | _, .inf y => if y then 1 else -1
  | .fin xn xm xe, .fin yn ym ye =>
    let q := min xe ye
    let d := finInt xn xm xe q - finInt yn ym ye q
    if d < 0 then -1 else if d = 0 then 0 else 1
  | _, _ => 0

/-! ### Division, square roots and VSFU (R113, R182, R195, Table 5.3) -/

/-- a / b for finite non-zero b, rounded into FP32. -/
def divRound (mode : Round) (neg : Bool) (m : Nat) (e : Int) (n : Nat) (f : Int) : Nat × Flags :=
  let k := 64 + log2Nat n
  let num := m * 2 ^ k
  roundFin .f32 mode false neg (num / n) (e - f - k) (num % n != 0)

/-- FDIV (R182): x / 0 is infinity for finite non-zero x, with DZ; 0/0 and infinity/infinity are NaN. -/
def fdiv (mode : Round) (a b : Fv) : Nat × Flags :=
  match a, b with
  | .nan, _ => (FpTy.f32.nanCode, 0)
  | _, .nan => (FpTy.f32.nanCode, 0)
  | .inf _, .inf _ => (FpTy.f32.nanCode, Flags.nv)
  | .inf x, .fin y _ _ => (FpTy.f32.signed (x != y) FpTy.f32.infCode, 0)
  | .fin x _ _, .inf y => (FpTy.f32.signed (x != y) 0, 0)
  | .fin x m e, .fin y n f =>
    if n = 0 then
      if m = 0 then (FpTy.f32.nanCode, Flags.nv) else (FpTy.f32.signed (x != y) FpTy.f32.infCode, Flags.dz)
    else if m = 0 then (FpTy.f32.signed (x != y) 0, 0)
    else divRound mode (x != y) m e n f

/-- The root of a positive finite value, rounded into FP32. -/
def sqrtRound (mode : Round) (m : Nat) (e : Int) : Nat × Flags :=
  let k : Nat := 130 + (e % 2).toNat
  let n := m * 2 ^ k
  let r := isqrt n
  roundFin .f32 mode false false r ((e - k) / 2) (r * r != n)

/-- Square root with the special cases of Table 5.3. -/
def fsqrt (mode : Round) (a : Fv) : Nat × Flags :=
  match a with
  | .nan => (FpTy.f32.nanCode, 0)
  | .inf true => (FpTy.f32.nanCode, Flags.nv)
  | .inf false => (FpTy.f32.infCode, 0)
  | .fin neg m e =>
    if m = 0 then (FpTy.f32.signed neg 0, 0)
    else if neg then (FpTy.f32.nanCode, Flags.nv)
    else sqrtRound mode m e

/-- rcp of Table 5.3. -/
def frcp (a : Fv) : Nat × Flags :=
  match a with
  | .nan => (FpTy.f32.nanCode, 0)
  | .inf x => (FpTy.f32.signed x 0, 0)
  | .fin neg m e =>
    if m = 0 then (FpTy.f32.signed neg FpTy.f32.infCode, Flags.dz) else divRound .rne neg 1 0 m e

/-- rsqrt of Table 5.3: the root of 2^s / m with s even, for an even exponent. -/
def frsqrt (a : Fv) : Nat × Flags :=
  match a with
  | .nan => (FpTy.f32.nanCode, 0)
  | .inf true => (FpTy.f32.nanCode, Flags.nv)
  | .inf false => (0, 0)
  | .fin neg m e =>
    if m = 0 then (FpTy.f32.signed neg FpTy.f32.infCode, Flags.dz)
    else if neg then (FpTy.f32.nanCode, Flags.nv)
    else
      let odd := (e % 2).toNat
      let m' := m * 2 ^ odd
      let s := 2 * (66 + log2Nat m')
      let r := isqrt (2 ^ s / m')
      roundFin .f32 .rne false false r (-(s : Int) / 2 - (e - odd) / 2) (r * r * m' != 2 ^ s)

/-- Working precision of exp2, in bits. -/
def exp2Prec : Nat := 256

/-- 2^(fr / 2^j) in units of 2^-exp2Prec: the product of the roots 2^(1/2), 2^(1/4), ... that the bits of fr select.
c is 2^(2^-(i - 1)), and the bits of fr are taken from bit k - 1 down. -/
def exp2Frac (fr : Nat) : Nat → Nat → Nat → Nat
  | 0, _, t => t
  | k + 1, c, t =>
    let c' := isqrt (c * 2 ^ exp2Prec)
    exp2Frac fr k c' (if fr / 2 ^ k % 2 = 1 then t * c' / 2 ^ exp2Prec else t)

/-- exp2 of Table 5.3 and R195. A power with a fraction is irrational, so its rounding is sticky; assumption 7. -/
def fexp2 (a : Fv) : Nat × Flags :=
  match a with
  | .nan => (FpTy.f32.nanCode, 0)
  | .inf true => (0, 0)
  | .inf false => (FpTy.f32.infCode, 0)
  | .fin neg m e =>
    if m = 0 then (0x3F80_0000, 0)
    else if 9 < e + log2Nat m then
      (if neg then roundFin .f32 .rne false false 1 (-400) false else roundFin .f32 .rne false false 1 400 false)
    else
      let j := (-e).toNat
      let v : Int := (if neg then -(m : Int) else m) * 2 ^ e.toNat
      let n := v.fdiv (2 ^ j)
      let fr := (v.fmod (2 ^ j)).toNat
      if fr = 0 then roundFin .f32 .rne false false 1 n false
      else
        let t := exp2Frac fr j (2 * 2 ^ exp2Prec) (2 ^ exp2Prec)
        roundFin .f32 .rne false false t (n - exp2Prec) true

/-- Working precision of log2, in bits, and the number of fraction bits that it gives. -/
def log2Prec : Nat := 512
def log2Bits : Nat := 200

/-- Fraction bits of the base 2 logarithm of y / 2^log2Prec in [1, 2), by repeated squaring. -/
def log2Frac : Nat → Nat → Nat → Nat
  | 0, _, acc => acc
  | k + 1, y, acc =>
    let y2 := y * y / 2 ^ log2Prec
    if 2 ^ (log2Prec + 1) ≤ y2 then log2Frac k (y2 / 2) (2 * acc + 1) else log2Frac k y2 (2 * acc)

/-- log2 of Table 5.3. The logarithm of a value that is no power of two is irrational; assumption 7. -/
def flog2 (a : Fv) : Nat × Flags :=
  match a with
  | .nan => (FpTy.f32.nanCode, 0)
  | .inf true => (FpTy.f32.nanCode, Flags.nv)
  | .inf false => (FpTy.f32.infCode, 0)
  | .fin neg m e =>
    if m = 0 then (FpTy.f32.signed true FpTy.f32.infCode, Flags.dz)
    else if neg then (FpTy.f32.nanCode, Flags.nv)
    else
      let l := log2Nat m
      let x : Int := e + l
      if m = 2 ^ l then cvtCode .f32 .rne false (Fv.ofInt x)
      else
        let fr := log2Frac log2Bits (m * 2 ^ (log2Prec - l)) 0
        let n : Int := x * 2 ^ log2Bits + fr
        if n < 0 then roundFin .f32 .rne false true (-n - 1).toNat (-(log2Bits : Int)) true
        else roundFin .f32 .rne false false n.toNat (-(log2Bits : Int)) true

/-- The function of a VSFU (R195). -/
def sfu (f : Sfu) (a : Fv) : Nat × Flags :=
  match f with
  | .rcp => frcp a
  | .rsqrt => frsqrt a
  | .sqrt => fsqrt .rne a
  | .exp2 => fexp2 a
  | .log2 => flog2 a

/-! ### Stochastic rounding (R116) -/

/-- One round of Philox4x32. -/
def philoxRound (c0 c1 c2 c3 k0 k1 : Nat) : Nat × Nat × Nat × Nat :=
  let p0 := 0xD2511F53 * c0
  let p1 := 0xCD9E8D57 * c2
  ((p1 / 2 ^ 32 ^^^ c1 ^^^ k0), p1 % 2 ^ 32, (p0 / 2 ^ 32 ^^^ c3 ^^^ k1), p0 % 2 ^ 32)

/-- n rounds of Philox4x32; word 0 of the counter at the end. -/
def philox : Nat → Nat × Nat × Nat × Nat → Nat → Nat → Nat
  | 0, c, _, _ => c.1
  | n + 1, c, k0, k1 =>
    philox n (philoxRound c.1 c.2.1 c.2.2.1 c.2.2.2 k0 k1) ((k0 + 0x9E3779B9) % 2 ^ 32) ((k1 + 0xBB67AE85) % 2 ^ 32)

/-- sr_bits(idx, step) of R116, keyed with SRKEY. -/
def srBits (key : Word) (idx step : Nat) : Nat :=
  philox 10 (idx % 2 ^ 32, idx / 2 ^ 32 % 2 ^ 32, step % 2 ^ 32, 0) (key.toNat % 2 ^ 32) (key.toNat / 2 ^ 32)

/-! ### The canonical tree (R117 to R120) -/

/-- add32 of R110 with its flags: binary32 addition under RNE, NaN results canonical. -/
def add32f (x y : Nat) : Nat × Flags :=
  let a := FpTy.f32.val x
  let b := FpTy.f32.val y
  arith .f32 .rne [a, b] (a.add b)

/-- add32 of R110. -/
def add32 (x y : Nat) : Nat := (add32f x y).1

/-- mul32 of R110. -/
def mul32 (x y : Nat) : Nat := (cvtCode .f32 .rne false ((FpTy.f32.val x).mul (FpTy.f32.val y))).1

/-- canon of R110 on an FP32 code. -/
def canon32 (x : Nat) : Nat := if (FpTy.f32.val x).isNan then FpTy.f32.nanCode else x

/-- A node of the tree over two halves, either of which may be empty (R117). -/
def treeNode (add : Nat → Nat → Nat) : Option Nat → Option Nat → Option Nat
  | a, none => a
  | none, b => b
  | some a, some b => some (add a b)

/-- T over 2^k leaves that start at index lo, empty where leaf gives none (R117). -/
def treeOf (add : Nat → Nat → Nat) (leaf : Nat → Option Nat) : Nat → Nat → Option Nat
  | 0, lo => leaf lo
  | k + 1, lo => treeNode add (treeOf add leaf k lo) (treeOf add leaf k (lo + 2 ^ k))

/-- Flags raised by the adds of the tree over 2^k leaves (R335: VRED ORs its flags). -/
def treeFlags (leaf : Nat → Option Nat) : Nat → Nat → Flags
  | 0, _ => 0
  | k + 1, lo =>
    let here :=
      match treeOf add32 leaf k lo, treeOf add32 leaf k (lo + 2 ^ k) with
      | some a, some b => (add32f a b).2
      | _, _ => 0
    treeFlags leaf k lo ||| treeFlags leaf k (lo + 2 ^ k) ||| here

/-- The value of a block scale (R111): E8M0 codes are powers of two, 0xFF is NaN. -/
def e8m0 (c : Nat) : Fv := if c = 0xFF then .nan else .fin false 1 ((c : Int) - 127)

/-- Exact sum of the products of a block (R120). -/
def sumFv (ps : List Fv) : Fv := ps.foldl Fv.add (.fin true 0 0)

/-- block_leaf of R120 over the present products, with the scales of the block. -/
def blockLeaf (sa sb : Fv) (ps : List Fv) : Option Nat :=
  if ps.isEmpty then none
  else if sa.isNan || sb.isNan then some FpTy.f32.nanCode
  else
    match sumFv ps with
    | .nan => some FpTy.f32.nanCode
    | .inf x => some (FpTy.f32.signed x FpTy.f32.infCode)
    | .fin neg m e =>
      if m = 0 then some (FpTy.f32.signed neg 0)
      else some (cvtCode .f32 .rne false ((Fv.fin neg m e).mul (sa.mul sb))).1

end Sys2Proof
end

