-- ==== Sys2Proof/Config.lean ====
section
/-! DEFINITION. What the spec leaves open: free values with no body, and the values that shipped firmware fixes. -/
namespace Sys2Proof.Config

/-- The n-th undefined value (R6): the pattern of a register whose result has not landed, and a draw of the
free-running stochastic-rounding source (R116). Any pattern; State.fresh numbers the uses. Assumption 1. -/
opaque freeBits : Nat → BitVec 2048

/-- The temperature that a site's sensor gives at the n-th reading, in 1/16 degree (R186, TEMP). Assumption 5. -/
opaque sensorTemp : Nat → Nat → BitVec 16

/-- The handle by which the security core of a die names its identity key (Table 13.6, R313), whose form the spec does not
give. Assumption 6. -/
opaque keyHandle : Nat → BitVec 64

/-- The signature of the device identity key over a report of ATTEST (R313); the key is not given. Assumption 6. -/
opaque attestSignature : List Byte → BitVec 512

/-- The drift by which Glen adjusts a domain's ageing offset at the n-th window, in units of 1.25 mV (R300). Assumption
40. -/
opaque ageDrift : Nat → Int

/-- The powered hours of the module at the n-th Steppe generation that Glen writes of itself (R302). Assumption 41. -/
opaque poweredHours : Nat → BitVec 32

/-- Whether the n-th free value counts a corrected error of an HBM channel (R81, R376). Assumption 71. -/
opaque correctedError : Nat → Bool

/-- Whether the n-th word that an engine writes under a load which has not landed reaches that load (R91). Assumption
72. -/
opaque loadRace : Nat → Bool

/-- Which leaf of a 2 MiB run with CONT = 1 the n-th walk of the run uses; a number beyond them means its own (R74).
Assumption 10. -/
opaque joinRun : Nat → Nat

/-- The share of EXPCAP that a distributor image sets on its die, by the digest of the image (R45). Assumption 74. -/
opaque expcapOf : BitVec 256 → Nat

/-- EXPCAP as shipped: k = 56 of 64 (R45). -/
def expcapShipped : Nat := 56

/-- WPK of Table 12.1 in milliwatts per site, domains M, V, N, H; the same in every limit table. -/
def wpk : List Nat := [6250, 1367, 391, 195]

/-- PFIX of Table 12.1 in milliwatts. -/
def pfix : Nat := 860000

/-- FBCAP in watts (R380). -/
def fbcap : Nat := 1250

end Sys2Proof.Config
end

