-- ==== Sys2Proof/Machine/State.lean ====
section
/-! DEFINITION. The state of the module as plain data: contexts with everything R29 lists, engines, HBM, translation
structures, queues and tracts, clocks and power, links, firmware; the reasons why a step may stop; the state right after power-on.
Values at reset that the spec does not give stand in notes/assumptions/3.md. -/
namespace Sys2Proof.Machine

/-- Bytes of one space, addresses strictly rising, no byte equal to 0 listed; an unlisted byte reads as 0. For tile
storage that is the cleared partition of R39; for HBM at power-on it is assumption 2. -/
abbrev Memory := List Host.Cell

/-! ### A context (R29) -/

/-- States of a context slot (Table 2.4). A FREE slot has no context in State.ctxs. -/
inductive CtxStatus where
  | alloc | gated | run | waiting | saved | exited
deriving DecidableEq, Repr

/-- An armed hardware loop: first and last body bundle and passes left (R150, R155). -/
structure Loop where
  first : Word32
  last : Word32
  rem : Nat
deriving DecidableEq, Repr

/-- A pending transfer: its target and the delay bundles still to issue (R154). -/
structure Xfer where
  target : Word32
  left : Nat
deriving DecidableEq, Repr

/-- The token of an ft register: the bundle number up to which writes are captured, none for an already performed
token, and the scope of FNI (R39, R100). -/
structure Token where
  upto : Option Nat
  scope : Scope
deriving DecidableEq, Repr

/-- STATE of a chain descriptor (Table 9.3). -/
inductive ChainState where
  | void | opened | closed
deriving DecidableEq, Repr

/-- A chain descriptor (Table 9.3): kind is 1 for integer sums, cs gives c = 2^(cs + 4), lw gives w = 2^lw. -/
structure Chain where
  state : ChainState
  kind : Bool
  kset : Bool
  h : Nat
  d : Nat
  cs : Nat
  k : Nat
  lo : Nat
  lw : Nat
  m : Nat
  occ : Nat
deriving DecidableEq, Repr

/-- A semaphore: its count (R61) and its marks (R339). -/
structure Sem where
  count : Word32
  marks : Nat
deriving DecidableEq, Repr

/-- A destination of a result with exposed latency (R7), a control and status register included (R185). -/
inductive Dest where
  | s (i : Nat)
  | a (i : Nat)
  | v (f : VFile) (i : Nat)
  | p (i : Nat)
  | f (i : Nat)
  | b (i : Nat)
  | csr (n : Nat)
deriving DecidableEq, Repr

/-- How a load makes its value of the bytes that it read: as they stand, eight times over, or extended by a type
(R238). -/
inductive LoadExt where
  | plain | spread
  | int (t : IntTy)
deriving DecidableEq, Repr

/-- What an L-slot load read: the offsets of its pieces, the bytes of each piece, the bytes, and how they make its value.
Until it lands, a write by an engine may still change a unit of the bytes (R84, R91) that done does not name as read: done
says of each unit whether its read has been performed. bound counts the bundles by which R7 has the load land, though its
result may stay in flight behind an earlier one for the same register (R136). -/
structure LoadSrc where
  offs : List Nat
  n : Nat
  bytes : List Byte
  ext : LoadExt
  done : List Bool
  bound : Nat
deriving DecidableEq, Repr

/-- A result in flight: it lands when the context has issued due bundles (R7). dst none is a result discarded under
R136 that still ORs its flags (R335). A held result waits for its LATOM to be performed (R241). load is what a load
or a LATOM read. -/
structure InFlight where
  dst : Option Dest
  val : Nat
  flags : BitVec 5
  due : Nat
  fresh : Bool
  held : Bool
  load : Option LoadSrc
deriving DecidableEq, Repr

/-- A fault report: CODE, CLASS, SLOT and DETAIL of FAULT (Table 16.2, R334). -/
structure Report where
  code : Nat
  cls : Nat
  slot : Nat
  detail : Nat
deriving DecidableEq, Repr

/-- An M instruction in the engine queue (R217, Table 16.9): its slot instruction, the bits lent to it, whether REPM
governs it, the repetitions not completed, whether a unit is in progress, MODE.ARITH.SATF8 as the unit found it (R232), and
as its next unit will find it: a CSRW does not change it for an instruction of its own bundle (R112, R185). -/
structure MEntry where
  ins : Instr
  lent : Option (BitVec 20)
  governed : Bool
  reps : Nat
  bundle : Nat
  running : Bool
  active : Bool
  satf8 : Bool
  satNext : Bool
deriving DecidableEq, Repr

/-- A slice of an MMAG step (R230, R231): sender, receiver, whether of A, and the values it carries. -/
structure Slice where
  sender : Nat
  dest : Nat
  isA : Bool
  step : Nat
  ty : MatTy
  c : Nat
  k : Nat
  s : Nat
  bytes : List Byte
deriving DecidableEq, Repr

/-- What a Q or N operation is (Tables 10.4 and 10.9). -/
inductive OpKind where
  | cpy | cpy2 | cpyt | cpylt | cpya | cpyz | cpyg | atom | fadd | atomx
  | rst | rsts | rcpy | rget | rsig | mcast | ratom
deriving DecidableEq, Repr

/-- An outstanding operation in an engine entry, 0 to 31 for Q and 32 to 63 for N (R243, R339). recd holds the record,
list or routine read at issue. bundle is the issuing bundle, CPYR's for a continuation, and origin the bundle of the
first issue (R254, R342); behind is the bundle up to whose M instructions hold it at busy rows (R219, R393). next counts
the bytes whose requests have been made, or is 1 once an atomic has been performed at its home, taken the source bytes
that have been read, and out the requests not yet performed; of these outTile are performed at .tile, outDie at .die and
outPkg at .pkg (R88). begun marks an operation that its engine has started, so that a later one could be served (R243).
carry holds the rest of a source word of which a request used a part (R84). cut holds the report of a cut
operation (R339). snap holds the bytes of own LM that an L-slot store of the issuing bundle has since overwritten, as
they stood (R90). -/
structure Op where
  e : Nat
  kind : OpKind
  dst : Word
  src : Word
  ctl : Word
  aux : Word
  recd : List Byte
  ty : AtomTy
  aop : AtomOp
  ord : Ord
  val : Word
  expd : Word
  bundle : Nat
  origin : Nat
  behind : Nat
  total : Nat
  next : Nat
  taken : Nat
  carry : List Marked
  out : Nat
  outTile : Nat
  outDie : Nat
  outPkg : Nat
  begun : Bool
  sent : Bool
  fault : Option Report
  cut : Option Report
  snap : List (Nat × Marked)
deriving DecidableEq, Repr

/-- A SIG that has retired and whose increment waits: of a SIG.rel until R98 allows it (covers), of a relaxed one behind
that of an earlier SIG on its semaphore (R98, R163, R164). -/
structure Release where
  sem : Nat
  inc : Word32
  scope : Scope
  bundle : Nat
  covers : Bool
deriving DecidableEq, Repr

/-- A LATOM held at the LM port for its release (R241). -/
structure HeldLatom where
  ty : AtomTy
  op : AtomOp
  off : Nat
  val : Word
  expd : Word
  sd : Nat
  bundle : Nat
  scope : Scope
deriving DecidableEq, Repr

/-- A SYS request that waits for its reply (R170). asked is true once the request has gone to system software. -/
structure SysReq where
  code : BitVec 16
  s60 : Word
  s61 : Word
  asked : Bool
deriving DecidableEq, Repr

/-- The place of a context in its launch (Table 2.2, R269): T, shape, group, address space, DET handler and queue. -/
structure LaunchInfo where
  t : Nat
  shape : Nat
  gid : Word32
  g : Nat
  grank : Nat
  asid : Nat
  deth : Option Word32
  queue : Nat
  seq : Nat
deriving DecidableEq, Repr

/-- Partition sizes of a context: LM, TS, AS, semaphore and instruction-store units (Table 11.6, R56). -/
structure Part where
  lm : Nat
  ts : Nat
  as : Nat
  sem : Nat
  is : Nat
deriving DecidableEq, Repr

/-- A ratio grant: steps of M, V, N, H and GSEQ (R186, R284). -/
structure Grant where
  m : Nat
  v : Nat
  n : Nat
  h : Nat
  gseq : Nat
deriving DecidableEq, Repr

/-- What a slot of the issuing bundle has met: nothing, a bundle-precise fault (R332, class 1, items 1 to 5 of R139), or
a DET trap (item 6). -/
inductive Raised where
  | no | fault | det
deriving DecidableEq, Repr

/-- What belongs to the bundle that is issuing: the bits an XIM lends and to which slot (R132), a fault or DET trap
met by a slot (R139), whether a slot holds the bundle back (R162, R217, R243), and the next bundle where a LOOP with
count 0 or a TRET names it (R155, R52). dev is the device index by which remote LM addresses name this device, if it is
set (R308). -/
structure Issue where
  lent : Option (BitVec 3 × BitVec 20)
  raised : Raised
  held : Bool
  jump : Option Word32
  dev : Option Nat
deriving DecidableEq, Repr

/-- A context (R29). failed is the bundle of the earliest operation or M instruction of it that has failed for good, so that no
release which covers that is performed any more (R98, R352). -/
structure Ctx where
  key : CtxKey
  site : Nat
  status : CtxStatus
  info : LaunchInfo
  part : Part
  pc : Word32
  xfer : Option Xfer
  aside : Option Xfer
  loops : List Loop
  repm : Option Nat
  s : Vector Word 64
  a : Vector Word 32
  va : Vector VReg 32
  vb : Vector VReg 32
  p : Vector PReg 24
  f : Vector Bool 8
  b : Vector Word32 8
  ft : Vector Token 8
  ma : Vector Word32 16
  ch : Vector Chain 8
  mcfg : BitVec 20
  tabA : Vector Word32 16
  tabB : Vector Word32 16
  mode : Word
  events : Word
  evmask : Word
  fault : Word
  srkey : Word
  clock : Nat
  replays : Word32
  grant : Grant
  lm : Memory
  ts : Memory
  as : Memory
  istore : Memory
  sems : List Sem
  poisonLm : List Nat
  poisonTs : List Nat
  poisonAs : List Nat
  poisonSem : List Nat
  poisonIs : List Nat
  issued : Nat
  inflight : List InFlight
  issue : Issue
  trapPc : Word32
  tretVal : Option (Word × Nat)
  sys : Option SysReq
  mq : List MEntry
  mmagStep : Nat
  mmagOut : List Slice
  mmagIn : List Slice
  ops : List Op
  rels : List Release
  latom : Option HeldLatom
  failed : Option Nat
  fatal : Option Report
  trapCode : BitVec 16
  yielded : Bool
deriving DecidableEq, Repr

/-! ### Requests at homes (R83, R243) -/

/-- A place that a granule request reads or writes (Table 4.1). dev is storage of another device: a remote LM address,
or an address of its space (R65, R66). -/
inductive Place where
  | hbm (pa : Nat)
  | lm (k : CtxKey) (off : Nat)
  | ts (k : CtxKey) (off : Nat)
  | asPlane (k : CtxKey) (off : Nat)
  | sem (k : CtxKey) (i : Nat)
  | dev (d : Nat) (isLm : Bool) (addr : Word)
deriving DecidableEq, Repr

/-- What a request does at its place. A read goes on with rest, collects got, and then writes to dst, or answers a peer
where dst is none; the last keep bytes of what it reads stay with the operation (R84). atomx holds the number of words
and the record. -/
inductive ReqKind where
  | read (len : Nat) (rest : List (Place × Nat)) (got : List Marked) (dst : Option Place) (keep : Nat)
  | write (data : List Marked)
  | atomic (t : AtomTy) (op : AtomOp) (v expd : Word)
  | fadd (v : Word32)
  | atomx (words : Nat) (recd : List Byte)
  | signal (inc : Word32)
deriving DecidableEq, Repr

/-- A request. owner is the context and the engine entry that made it, at byte pos of its operation; ans the device and
tag of a peer's request; src the die whose engine or port asks. remote says which copy engine serves it (R58). old marks
a request that an invalidation command waits for (R78). passTile, passDie and passPkg say that its write is performed at
.tile, at .die and at .pkg (R88), and spread that a release of its context has been performed since, so that a release of
another context may have to wait for it (R98). State.reqs holds those that have reached their homes, in arrival order. -/
structure Req where
  owner : Option (CtxKey × Nat)
  ans : Option (Nat × Nat)
  src : Nat
  pos : Nat
  express : Bool
  remote : Bool
  old : Bool
  passTile : Bool
  passDie : Bool
  passPkg : Bool
  spread : Bool
  tract : Nat
  place : Place
  kind : ReqKind
deriving DecidableEq, Repr

/-- What crosses a die link (R19): a request, or one whose target has completed since and which its home will turn away with a
DETAIL (R35); or the response to one: the bytes read, the old bytes of an atomic, that a write or signal is performed, a fault, or
that a port has given the request up. -/
inductive Cargo where
  | ask
  | turned (detail : Nat)
  | data (xs : List Marked)
  | old (bs : List Byte)
  | ack
  | fail (code detail : Nat)
  | gone
deriving DecidableEq, Repr

/-- A request or response between two dies: where it lies, where it set out and where it goes; route is the port and the
hops by which a request to another device leaves (R309). -/
structure Crossing where
  die : Nat
  start : Nat
  goal : Nat
  route : Option (Nat × List Nat)
  req : Req
  cargo : Cargo
deriving DecidableEq, Repr

/-- A request sent to another device over CLP and not yet answered (R65, R66), with the port it left by. -/
structure ClpOut where
  tag : Nat
  port : Nat
  req : Req
deriving DecidableEq, Repr

/-- A message as it leaves: the port and the hops of its route, which are its routing header (R309); none for an answer,
which goes back the way that its request came. -/
structure Packet where
  route : Option (Nat × List Nat)
  dest : Nat
  msg : ClpMsg
deriving DecidableEq, Repr

/-! ### Translation (R70 to R78) -/

/-- What an access needs of a leaf (R72). -/
structure Need where
  rd : Bool
  wr : Bool
  atom : Bool
  rem : Bool
deriving DecidableEq, Repr

/-- Who waits for a walk: the operation of a bundle in an engine entry of a context, or a message of another device. -/
inductive Asker where
  | op (k : CtxKey) (e bundle : Nat)
  | msg (m : ClpMsg)
deriving DecidableEq, Repr

/-- A leaf translation held in a TLB: level 2 for a 2 GiB page, 3 for a 64 KiB page, 4 for a 2 MiB run (R74, Table
3.12). -/
structure Tlb where
  asid : Nat
  vpn : Nat
  lvl : Nat
  leaf : Word
deriving DecidableEq, Repr

/-- An entry of the walk cache: level 0 an address-space table entry, 1 and 2 pointers (Table 3.12). -/
structure WalkEntry where
  asid : Nat
  lvl : Nat
  tag : Nat
  entry : Word
deriving DecidableEq, Repr

/-- How a walk ended (R72): with a poisoned entry, at its address. -/
inductive WalkEnd where
  | leaf (lvl : Nat) (entry : Word)
  | notMapped | malformed
  | poison (pa : Nat)
deriving DecidableEq, Repr

/-- A walk in flight: the next entry to read (R73), its end, and the accesses that wait for it, with what each needs
(R76). Under an invalidation command its result is not cached (nocache), and old marks a walk that was in flight when
the command was accepted (R78). -/
structure Walker where
  asid : Nat
  va : Nat
  lvl : Nat
  pa : Nat
  nocache : Bool
  old : Bool
  ended : Option WalkEnd
  askers : List (Asker × Need)
deriving DecidableEq, Repr

/-- A miss that waits for a walker (R76). -/
structure Miss where
  asid : Nat
  va : Nat
  askers : List (Asker × Need)
deriving DecidableEq, Repr

/-! ### Sites and dies -/

/-- A tile site (R14, R45, R58, R298 to R302, R358 to R363, R385). Points are in units of 1.25 mV above 0.45 V. replays
are Glen's counters by domain and step, raised counts the emergency raises in force, and servedQ and servedN say that the
LM port has served the engine since the last V-cycle; portRest counts the V-cycles in which no engine may take the port from
the L slot, since one has (R280). last names the contexts whose bundles the last V-cycle issued, and
squash and squashTop count how often that issue has been squashed, and squashed at 0.85 V. clock holds the steps at which the clocks
run, and volt those for which the regulator has settled (R301). -/
structure Site where
  ceil : List Nat
  esc : Nat
  wantFence : Bool
  drain : Bool
  fenced : Bool
  tripped : Bool
  pts : List (List Nat)
  age : List Int
  volt : List Nat
  clock : List Nat
  lowRuns : List (List Nat)
  replays : List (List Nat)
  raised : Nat
  last : List CtxKey
  squash : Nat
  squashTop : Nat
  halfRate : Nat
  vcount : Nat
  exprCount : Nat
  bulkTurn : Bool
  errs : Nat
  waitQ : Nat
  waitN : Nat
  servedQ : Bool
  servedN : Bool
  portRest : Nat
  tlbQ : List Tlb
  tlbN : List Tlb
deriving DecidableEq, Repr

/-- What an arbiter of Table 3.16 keeps: the run of express grants, the tract served last, and the granules that each
tract was granted in the current window (R82, R294). -/
structure Arb where
  exprRun : Nat
  turn : Nat
  spent : List (Nat × Nat)
deriving DecidableEq, Repr

/-- One edge of the die ring, from die e to (e + 1) mod 4 (R366, R367), with the arbiters of its two directions,
clockwise and back (R294); due says that a retrain waits for the end of a hand-over (R316). -/
structure Edge where
  st : Nat
  wid : Nat
  rtr : Nat
  rplA : Nat
  rplB : Nat
  attempts : Nat
  synced : Bool
  due : Bool
  arbA : Arb
  arbB : Arb
deriving DecidableEq, Repr

/-- A fabric port (R375). -/
structure Port where
  st : Nat
  downs : Nat
deriving DecidableEq, Repr

/-- An HBM channel with its arbiter (R82, R294, R376). -/
structure Chan where
  ce : Nat
  ue : Nat
  lost : Bool
  arb : Arb
deriving DecidableEq, Repr

/-- A running firmware image of a controller: SVN and digest (R311 to R313). -/
structure Fw where
  svn : Nat
  digest : BitVec 256
  beating : Bool
deriving DecidableEq, Repr

/-- A compute die and its controllers. -/
structure Die where
  inService : Bool
  sticky : BitVec 5
  stage : Nat
  qtbase : Word
  qtSet : Bool
  savebase : Word
  refused : Nat
  err : Nat
  fwTarget : Nat
  rollbk : Nat
  repl : Nat
  locked : Bool
  trips : Nat
  ocl : Bool
  ocHits : Nat
  bf : Nat
  expcap : Nat
  meas : List (BitVec 256)
  fw : List (Option Fw)
  ports : List Port
  tlb : List Tlb
  walkCache : List WalkEntry
  walkers : List Walker
  waiting : List Miss
deriving DecidableEq, Repr

/-! ### Queues, launches, tracts -/

/-- What the distributor keeps of a queue that has been enabled since power-on (R263 to R266). gen counts its
enablings. -/
structure WQueue where
  q : Nat
  gen : Nat
  en : Bool
  express : Bool
  prio : Nat
  logsz : Nat
  asid : Nat
  ring : Nat
  head : Nat
  done : Nat
  qerr : Bool
  tail : Nat
deriving DecidableEq, Repr

/-- A change of EN that a write made, with CTL, RING, TAIL and the reserved bytes of the descriptor as they stood at that write
(R4, R263). -/
structure CtlEvent where
  q : Nat
  en : Bool
  ctl : Nat
  ring : Nat
  tail : Nat
  rest : Nat
deriving DecidableEq, Repr

/-- The sections of an accepted image (R148). -/
structure Wim where
  code : List Byte
  entries : List Nat
  data : List (Nat × List Byte)
deriving DecidableEq, Repr

/-- How far a taken launch has come: checked and still to be matched to its group; eligible once its dependences are met;
placed; waiting for its reissue, left giving its turn; ended before a placement, or while SAVED or waiting for a reissue,
with its record still to be written; with its record written and its tract still on its sites (R42); with its record
written and no tract, after a placement or not. -/
inductive LaunchPhase where
  | taken
  | matched
  | placed (tract : Nat)
  | reissue (left : Nat)
  | refused (status : Nat) (wasPlaced : Bool)
  | written (tract : Nat)
  | over (wasPlaced : Bool)
deriving DecidableEq, Repr

/-- A launch taken and whose DONE has not advanced (R265, R270, R364): the distributor's copy of its block, and what its
queue held when it was taken. grant is the word of its last grant (R272), and waited marks one that has waited for dies
that it could not reserve (R277). -/
structure Launch where
  q : Nat
  seq : Nat
  gen : Nat
  asid : Nat
  express : Bool
  prio : Nat
  blk : List Byte
  img : Wim
  phase : LaunchPhase
  reissues : Nat
  swouts : Nat
  grant : Nat
  waited : Bool
deriving DecidableEq, Repr

/-- Where a tract stands; complete while its record is written and its queue's DONE has still to advance (R42). -/
inductive TractState where
  | starting | running | ending | saving | saved | complete
deriving DecidableEq, Repr

/-- Why a tract ends (Table 16.7): STATUS, CODE, FRANK and that rank's FAULT. -/
structure EndCause where
  status : Nat
  code : Nat
  frank : Nat
  fault : Word
deriving DecidableEq, Repr

/-- A tract (R30, R284, R288). order is its place in placements and switch-ins; first marks a tract without its first grant, and
renew one on which the grant of its placement or switch-in is not in effect yet (R293); left is its place among switch-outs;
images are the save images by rank; frank is the rank whose fault report the distributor received first (R347). -/
structure Tract where
  id : Nat
  q : Nat
  seq : Nat
  express : Bool
  prio : Nat
  t : Nat
  shape : Nat
  preempt : Bool
  sites : List Nat
  state : TractState
  cause : Option EndCause
  req : Grant
  floor : Grant
  grant : Grant
  next : Option Grant
  lam : Nat
  mu : Nat
  order : Nat
  left : Nat
  first : Bool
  renew : Bool
  drained : Bool
  images : List (Nat × Nat)
  quantumOver : Bool
  frank : Option Nat
deriving DecidableEq, Repr

/-- A reservation of dies (R277). -/
structure Reservation where
  q : Nat
  seq : Nat
  dies : List Nat
deriving DecidableEq, Repr

/-- A save or teardown image in a save region (R353): die, directory index, PA, size, and whether it has been written. -/
structure SaveImg where
  die : Nat
  idx : Nat
  pa : Nat
  size : Nat
  written : Bool
deriving DecidableEq, Repr

/-! ### Package -/

/-- Saddle's state (R289, R296, R297, R380 to R384). The cap is in watts. -/
structure Saddle where
  cooling : Cooling
  cap : Nat
  fallback : Bool
  beyond : Bool
  uflr : Bool
  inlet : Int
  lastInlet : Option Int
  lastFlow : Option Int
  bad : Nat
  good : Nat
  ocCut : Bool
  pending : Bool
deriving DecidableEq, Repr

/-- The flash and the fuses: what survives power-off (R23, R27, R302, R311). flash holds the 64 MiB of the flash, in which
the Steppe banks lie at the offsets of R302, and certChain the identity certificate chain; lastA says that bank A was
last read or written (R303). -/
structure Persist where
  flash : Memory
  certChain : List Byte
  lastA : Bool
  keyHash : BitVec 256
  minSvn : List Nat
deriving DecidableEq, Repr

/-- The state record that an image hands over (Table 13.6): of the Saddle agent with request, floors, both levels and GSEQ of each
tract, what it knows of the module, and whether it led; of the distributor with the queues that it serves, and queue, number and
issue of each launch that waits. -/
inductive HandOver where
  | security (meas : List (BitVec 256)) (staged : Nat) (key : Word)
  | glen (pts : List (List (List Nat))) (age : List (List Int)) (replays : List (List (List Nat)))
  | saddle (tracts : List (Nat × Grant × Grant × Nat × Nat × Nat)) (bf : Nat) (lead : Bool) (state : Saddle)
  | distributor (queues : List WQueue) (tracts : List (Nat × TractState)) (waiting : List (Nat × Nat × Nat))
      (reservations : List Reservation) (quanta : List Nat) (asks : List CtxKey)
  | fabric (routes : List Word) (ports : List Port) (flows : List Nat)
deriving DecidableEq, Repr

/-- A live replacement in progress (R314, R315): the staging region, the step of Table 13.7 reached, the verified image,
and the state record with its version once the old image has written it. -/
structure Repl where
  die : Nat
  target : Nat
  pa : Nat
  step : Nat
  image : Option Fw
  record : Option (Nat × HandOver)
deriving DecidableEq, Repr

/-- A group that a launch of this device has joined, with the group rank of the member here and the launch that is this member:
its queue, its number and its queue's enabling. It stays matched until every member has completed (R33, R35). -/
structure Group where
  gid : Nat
  grank : Nat
  q : Nat
  seq : Nat
  gen : Nat
deriving DecidableEq, Repr

/-- The stream of a host port and the sequence number of the request that it performs next (R305). -/
structure Stream where
  port : Nat
  stream : Nat
  next : Nat
deriving DecidableEq, Repr

/-- What the module has sent to the host: acknowledgements with a code and data, and NOTIFY requests (R170, R305). -/
inductive HostMsg where
  | ack (h : Mht) (ok : Bool) (code : Nat) (data : List Byte)
  | notify (k : CtxKey) (code : BitVec 16) (s60 s61 : Word)
deriving DecidableEq, Repr

/-- A scheduled turn: an event, one V-cycle of a site, or a slot of the arbiter of one direction of an edge, which grants
the n-th crossing that it may grant (R19, R294). -/
inductive Turn where
  | event (i : Instr)
  | cycle (site : Nat)
  | link (edge : Nat) (clockwise : Bool) (n : Nat)
deriving DecidableEq, Repr

/-- The state of the module. cur is the context whose bundle is issuing; agenda holds the scheduled turns, oldest
first, and fresh numbers the free values: both are the model's own (assumption 1). deferred holds the host's requests
that wait for an earlier request of their stream, for a die link, or for the end of a hand-over (R305, R316). transit
holds what crosses the die links, oldest first. -/
structure State where
  cur : Option Ctx
  ctxs : List Ctx
  agenda : List Turn
  deferred : List Instr
  streams : List Stream
  fresh : Nat
  powered : Bool
  sites : List Site
  dies : List Die
  edges : List Edge
  chans : List Chan
  hbm : Memory
  hbmPoison : List Nat
  reqs : List Req
  transit : List Crossing
  clpOut : List ClpOut
  clpSent : List Packet
  inbox : List ClpMsg
  tag : Nat
  astbase : Word
  invva : Word
  invAt : Word
  invctl : Word
  invSeq : BitVec 16
  invRefused : Bool
  invBusy : Bool
  devcfg : Word
  routes : List Word
  queues : List WQueue
  bells : List Nat
  ctlEvents : List CtlEvent
  groups : List Group
  launches : List Launch
  tracts : List Tract
  nextTract : Nat
  orders : Nat
  rr : List (Nat × Nat)
  reservations : List Reservation
  images : List SaveImg
  saddle : Saddle
  persist : Persist
  repl : Option Repl
  attempts : Nat
  steppeDue : Bool
  outbox : List HostMsg
deriving DecidableEq, Repr

/-- Reasons why the machine stops with a fault. No rule of the spec stops the whole machine: every fault that it
describes is a next state here. -/
inductive Fault where
  /-- Raised by nobody: the spec names no condition that stops the module for good while it is powered, and the model
  adds none. Safe. -/
  | unreachable
deriving DecidableEq, Repr

/-- Reasons why an instruction has no meaning in a state. -/
inductive Refusal where
  /-- Raised by exec's arms for a row that has no meaning yet. Safe: nothing is claimed of it. -/
  | notModelled (mnemonic : String)
  /-- Raised by every slot instruction when no context is issuing a bundle: the spec gives a slot instruction an
  effect only in a context (R29, R129). Safe: no step of the machine runs a slot instruction without one. -/
  | noContext
deriving DecidableEq, Repr

/-! ### Right after power-on (R27, R310) -/

/-- The descriptor of no chain (R220). -/
def Chain.void : Chain := ⟨.void, false, false, 0, 0, 0, 0, 0, 0, 0, 0⟩

/-- No grant yet: the steps of assumption 3. -/
def Grant.zero : Grant := ⟨0, 0, 0, 0, 0⟩

/-- A site at power-on: ceilings 31 (R360), nothing learned (assumption 3). -/
def Site.reset : Site where
  ceil := [31, 31, 31, 31]
  esc := 0
  wantFence := false
  drain := false
  fenced := false
  tripped := false
  pts := List.replicate 4 (List.replicate 32 0)
  age := [0, 0, 0, 0]
  volt := [0, 0, 0, 0]
  clock := [0, 0, 0, 0]
  lowRuns := List.replicate 4 (List.replicate 32 0)
  replays := List.replicate 4 (List.replicate 32 0)
  raised := 0
  last := []
  squash := 0
  squashTop := 0
  halfRate := 0
  vcount := 0
  exprCount := 0
  bulkTurn := true
  errs := 0
  waitQ := 0
  waitN := 0
  servedQ := false
  servedN := false
  portRest := 0
  tlbQ := []
  tlbN := []

/-- An arbiter that has granted nothing. -/
def Arb.reset : Arb := ⟨0, 0, []⟩

/-- A die at power-on: stage ROM, no firmware (R27, R310), measurements zero (R312), and fabric ports that have still to
train. -/
def Die.reset : Die where
  inService := true
  sticky := 0
  stage := 0
  qtbase := 0
  qtSet := false
  savebase := 0
  refused := 0
  err := 0
  fwTarget := 0
  rollbk := 0
  repl := 0
  locked := false
  trips := 0
  ocl := false
  ocHits := 0
  bf := 64
  expcap := Config.expcapShipped
  meas := List.replicate 5 0
  fw := List.replicate 5 none
  ports := List.replicate 4 ⟨1, 0⟩
  tlb := []
  walkCache := []
  walkers := []
  waiting := []

/-- Saddle before the board identity is read (assumption 3). -/
def Saddle.reset : Saddle where
  cooling := .coldPlate
  cap := 3200
  fallback := false
  beyond := false
  uflr := false
  inlet := 0
  lastInlet := none
  lastFlow := none
  bad := 0
  good := 0
  ocCut := false
  pending := false

/-- Flash and fuses of a module fresh from the factory; the key hash is that of one public key (assumption 3). -/
def Persist.reset : Persist where
  flash := []
  certChain := []
  lastA := false
  keyHash := 0xd875db7def232236aec738c6b0bb3e80142f5d0fd8f4df24fed6eef5cbb50d9f
  minSvn := [0, 0, 0, 0, 0]

/-- The module right after power-on: boot stage 0 on every die, die links that have still to train, no queue, no context,
HBM with nothing listed. -/
def State.reset : State where
  cur := none
  ctxs := []
  agenda := []
  deferred := []
  streams := []
  fresh := 0
  powered := true
  sites := List.replicate 256 Site.reset
  dies := List.replicate 4 Die.reset
  edges := List.replicate 4 ⟨1, 8, 0, 0, 0, 0, true, false, Arb.reset, Arb.reset⟩
  chans := List.replicate 384 ⟨0, 0, false, Arb.reset⟩
  hbm := []
  hbmPoison := []
  reqs := []
  transit := []
  clpOut := []
  clpSent := []
  inbox := []
  tag := 0
  astbase := 0
  invva := 0
  invAt := 0
  invctl := 0
  invSeq := 0
  invRefused := false
  invBusy := false
  devcfg := 0
  routes := List.replicate 512 0
  queues := []
  bells := []
  ctlEvents := []
  groups := []
  launches := []
  tracts := []
  nextTract := 1
  orders := 0
  rr := []
  reservations := []
  images := []
  saddle := Saddle.reset
  persist := Persist.reset
  repl := none
  attempts := 0
  steppeDue := false
  outbox := []

end Sys2Proof.Machine
end

