-- ==== Sys2Proof/Machine/Ops.lean ====
section
/-! DEFINITION. The named operations over memory, registers and semaphores: reads and writes of bytes (R2, R10),
results in flight (R7, R136), the sequence (R150), reports and faults (R334, R347), the DET trap and the return from
it (R51, R52), and the lifting of an operation on a context to the module. -/
namespace Sys2Proof.Machine
open Host

/-! ### Bytes of one space -/

/-- The byte at an address; an unlisted byte is 0. -/
def Memory.byte (m : Memory) (a : Nat) : Byte :=
  match m.find? (fun c => c.1 == a) with
  | some c => c.2
  | none => 0

/-- n bytes from an address on. -/
def Memory.read (m : Memory) (a n : Nat) : List Byte := tabulate n fun i => m.byte (a + i)

/-- The cells of bytes laid from an address on; zero bytes are not listed. -/
def cellsAt : Nat → List Byte → Memory
  | _, [] => []
  | a, b :: bs => if b = 0 then cellsAt (a + 1) bs else (a, b) :: cellsAt (a + 1) bs

/-- Writes bytes from an address on, and keeps the canonical form. -/
def Memory.write (m : Memory) (a : Nat) (bs : List Byte) : Memory :=
  m.filter (fun c => decide (c.1 < a)) ++ cellsAt a bs ++ m.filter (fun c => decide (a + bs.length ≤ c.1))

/-- All cells lie at or above lo, strictly rising, and none is 0. -/
def Memory.wfFrom : Nat → Memory → Bool
  | _, [] => true
  | lo, (a, b) :: m => decide (lo ≤ a) && b != 0 && Memory.wfFrom (a + 1) m

/-- The canonical form of a memory: addresses strictly rising, no byte equal to 0 listed. -/
def Memory.wf (m : Memory) : Bool := Memory.wfFrom 0 m

/-- The little-endian number in n bytes from an address on (R2, R10). -/
def Memory.num (m : Memory) (a n : Nat) : Nat := leNat (m.read a n)

/-- Ranges [a, a + n) and [b, b + m) meet. -/
def meets (a n b m : Nat) : Bool := decide (a < b + m) && decide (b < a + n)

/-! ### Poison marks (R343, R344): a list of the poisoned words of one space -/

/-- True when a word of the given size that n bytes at a touch is poisoned. -/
def poisonHit (p : List Nat) (unit a n : Nat) : Bool :=
  p.any fun w => decide (w * unit < a + n) && decide (a < (w + 1) * unit)

/-- The marks after bytes with the given marks have been written at a: a word written whole takes the marks of its new
bytes, and a word written in part keeps its own as well. -/
def poisonWrite (p : List Nat) (unit a : Nat) (marks : List Bool) : List Nat :=
  let n := marks.length
  let whole := fun w => decide (a ≤ w * unit) && decide ((w + 1) * unit ≤ a + n)
  let fresh := ((List.range n).filter fun i => marks.getD i false).map fun i => (a + i) / unit
  let kept := p.filter fun w => !whole w || n = 0
  kept ++ (fresh.eraseDups.filter fun w => !kept.contains w)

/-- The marks of n bytes read at a. -/
def poisonRead (p : List Nat) (unit a n : Nat) : List Bool :=
  tabulate n fun i => p.contains ((a + i) / unit)

/-! ### Register reads (R133) -/

/-- s register i. -/
def Ctx.rs (c : Ctx) (i : BitVec 6) : Word := c.s[i.toNat]'(i.isLt)
/-- a register i. -/
def Ctx.ra (c : Ctx) (i : BitVec 5) : Word := c.a[i.toNat]'(i.isLt)
/-- Register i of a vector file. -/
def Ctx.rv (c : Ctx) (u : VFile) (i : BitVec 5) : VReg :=
  match u with
  | .va => c.va[i.toNat]'(i.isLt)
  | .vb => c.vb[i.toNat]'(i.isLt)
/-- p register i; a field that names p24 to p31 has been refused by decode (R138). -/
def Ctx.rp (c : Ctx) (i : BitVec 5) : PReg := c.p.toList.getD i.toNat 0
/-- f register i. -/
def Ctx.rf (c : Ctx) (i : BitVec 3) : Bool := c.f[i.toNat]'(i.isLt)
/-- b register i. -/
def Ctx.rb (c : Ctx) (i : BitVec 3) : Word32 := c.b[i.toNat]'(i.isLt)
/-- ma register i. -/
def Ctx.rma (c : Ctx) (i : BitVec 4) : Word32 := c.ma[i.toNat]'(i.isLt)
/-- Chain descriptor i. -/
def Ctx.rch (c : Ctx) (i : BitVec 3) : Chain := c.ch[i.toNat]'(i.isLt)
/-- The token of ft register i. -/
def Ctx.rft (c : Ctx) (i : BitVec 3) : Token := c.ft[i.toNat]'(i.isLt)

/-- The guard of an instruction (R131). -/
def Ctx.guardOk (c : Ctx) (g : Guard) : Bool := c.rf g.flag != g.neg

/-- Writes an ma register (M slot only, R133). -/
def Ctx.setMa (c : Ctx) (i : BitVec 4) (v : Word32) : Ctx := { c with ma := c.ma.setIfInBounds i.toNat v }
/-- Writes a chain descriptor. -/
def Ctx.setCh (c : Ctx) (i : BitVec 3) (d : Chain) : Ctx := { c with ch := c.ch.setIfInBounds i.toNat d }
/-- Writes an ft register. -/
def Ctx.setFt (c : Ctx) (i : BitVec 3) (t : Token) : Ctx := { c with ft := c.ft.setIfInBounds i.toNat t }

/-! ### Bits of MODE (Table 2.3) -/

/-- Deterministic mode. -/
def Ctx.det (c : Ctx) : Bool := c.mode.getLsbD 0
/-- Express class. -/
def Ctx.express (c : Ctx) : Bool := c.mode.getLsbD 2
/-- A DET handler runs. -/
def Ctx.indet (c : Ctx) : Bool := c.mode.getLsbD 5
/-- The launch is pre-emptible. -/
def Ctx.preempt (c : Ctx) : Bool := c.mode.getLsbD 4
/-- MODE.ARITH, bits [15:8] (R112). -/
def Ctx.arith (c : Ctx) : BitVec 8 := c.mode.extractLsb' 8 8

/-- Replaces bit n of a word. -/
def setBit (w : Word) (n : Nat) (b : Bool) : Word :=
  if b then w ||| BitVec.twoPow 64 n else w &&& ~~~(BitVec.twoPow 64 n)

/-- Replaces bits [lo + n - 1 : lo] of a word. -/
def setBits (w : Word) (lo n v : Nat) : Word :=
  let m : Word := BitVec.ofNat 64 ((2 ^ n - 1) * 2 ^ lo)
  (w &&& ~~~m) ||| (BitVec.ofNat 64 (v % 2 ^ n * 2 ^ lo))

/-! ### FAULT (R333 to R335) -/

/-- The bits of FAULT that a CSRW writes: every field of Table 16.2 that is not reserved. -/
def faultWritable : Word := 0xF807_FFFF_FFFF_FCFF

/-- Records a report: CODE, CLASS, SLOT and DETAIL together, and OVR when a report stood there (R334). -/
def reportInto (f : Word) (r : Report) : Word :=
  let f1 := if bitsOf f.toNat 0 8 = 0 then f else setBit f 48 true
  setBits (setBits (setBits (setBits f1 16 32 r.detail) 13 3 r.slot) 10 3 r.cls) 0 8 r.code

/-- RCV of a context (R339). -/
def Ctx.rcv (c : Ctx) : Bool := c.fault.getLsbD 49

/-- Sets or clears WCUT (R341). -/
def Ctx.setWcut (c : Ctx) (b : Bool) : Ctx := { c with fault := setBit c.fault 50 b }

/-- Records a report in a context (R334). -/
def Ctx.report (c : Ctx) (r : Report) : Ctx := { c with fault := reportInto c.fault r }

/-! ### Results in flight (R7, R136, R335) -/

/-- Writes a value to a control and status register, as CSRW lands (R36, R185, R334, Table 7.19). Of MODE the fields of
Table 5.2 are written; its reserved bits stay 0 (R4). -/
def Ctx.storeCsr (c : Ctx) (n v : Nat) : Ctx :=
  match n with
  | 0x07 => { c with mode := setBits c.mode 8 3 (bitsOf v 8 3) }
  | 0x0D => { c with evmask := BitVec.ofNat 64 (v % 32) }
  | 0x0E =>
    let w := BitVec.ofNat 64 v &&& faultWritable
    { c with fault := if c.part.lm = 0 then setBit w 49 false else w }
  | 0x0F => { c with srkey := BitVec.ofNat 64 v }
  | _ => c

/-- Writes a value to a destination. -/
def Ctx.store (c : Ctx) (d : Dest) (v : Nat) : Ctx :=
  match d with
  | .s i => { c with s := c.s.setIfInBounds i (BitVec.ofNat 64 v) }
  | .a i => { c with a := c.a.setIfInBounds i (BitVec.ofNat 64 v) }
  | .v .va i => { c with va := c.va.setIfInBounds i (BitVec.ofNat 2048 v) }
  | .v .vb i => { c with vb := c.vb.setIfInBounds i (BitVec.ofNat 2048 v) }
  | .p i => { c with p := c.p.setIfInBounds i (BitVec.ofNat 256 v) }
  | .f i => { c with f := c.f.setIfInBounds i (v % 2 = 1) }
  | .b i => { c with b := c.b.setIfInBounds i (BitVec.ofNat 32 v) }
  | .csr n => c.storeCsr n v

/-- MODE.ARITH.SATF8. -/
def Ctx.satf8 (c : Ctx) : Bool := c.mode.getLsbD 9

/-- MODE.ARITH has been written by a CSRW with the given bound: the queued M instructions of bundles before the CSRW's own
find it at their next units; one of its own bundle does not (R112, R185, R232). -/
def Ctx.spreadArith (c : Ctx) (d : Dest) (due : Nat) : Ctx :=
  match d with
  | .csr 0x07 =>
    { c with mq := c.mq.map fun (m : MEntry) => if m.bundle + 1 < due then { m with satNext := c.satf8 } else m }
  | _ => c

/-- A result lands: its destination is written unless R136 discards it, and its flags are ORed into FAULT (R335). -/
def Ctx.landOne (c : Ctx) (e : InFlight) : Ctx :=
  let c1 := match e.dst with
    | some d => (c.store d e.val).spreadArith d e.due
    | none => c
  { c1 with fault := c1.fault ||| ((e.flags.zeroExtend 64) <<< (59 : Nat)) }

/-- Every unit of a load has been read (R84). -/
def LoadSrc.settle (x : LoadSrc) : LoadSrc := { x with done := x.done.map fun _ => true }

/-- What a load in flight has read stays as it is. -/
def InFlight.settle (e : InFlight) : InFlight := { e with load := e.load.map LoadSrc.settle }

/-- The results in flight when those that f selects land: a load older than one that lands has been performed (R89). -/
def settleBefore (f : InFlight → Bool) : List InFlight → List InFlight
  | [] => []
  | e :: es => (if es.any fun x => f x && x.load.isSome then e.settle else e) :: settleBefore f es

/-- Lands every result that f selects, in issue order. A result held for its LATOM does not land (R241). -/
def Ctx.landWhere (c : Ctx) (f : InFlight → Bool) : Ctx :=
  let sel := fun e : InFlight => !e.held && f e
  (c.inflight.filter sel).foldl Ctx.landOne
    { c with inflight := (settleBefore sel c.inflight).filter fun e => !sel e }

/-- Lands the results whose bound has passed. -/
def Ctx.landDue (c : Ctx) : Ctx := c.landWhere fun e => decide (e.due ≤ c.issued)

/-- Lands every result in flight (R47, R40, R137) but that of a LATOM which still waits for its release; that one lands
when it is performed (R241). -/
def Ctx.landAll (c : Ctx) : Ctx := c.landWhere fun _ => true

/-- The results in flight with those for a destination discarded (R136). -/
def Ctx.discard (c : Ctx) (d : Dest) : List InFlight :=
  c.inflight.map fun e => if e.dst = some d then { e with dst := none, held := false } else e

/-- Puts a result in flight with bound l and exception flags fl: land(d, v, l) of R10. An earlier result for the same
destination is discarded, and the destination stays undefined until the later of the two bounds (R136). -/
def Ctx.pushHeld (c : Ctx) (d : Dest) (v l : Nat) (fl : Flags) (held : Bool) : Ctx :=
  let due := c.inflight.foldl (fun m e => if e.dst = some d then max m e.due else m) (c.issued + l)
  { c with inflight := c.discard d ++ [⟨some d, v, fl, due, true, held, none⟩] }

/-- land(d, v, l) with exception flags. -/
def Ctx.pushF (c : Ctx) (d : Dest) (v l : Nat) (fl : Flags) : Ctx := c.pushHeld d v l fl false

/-- land(d, v, l). -/
def Ctx.push (c : Ctx) (d : Dest) (v l : Nat) : Ctx := c.pushF d v l 0

/-- Notes what the newest result in flight was loaded from (R91). -/
def Ctx.loadedFrom (c : Ctx) (x : LoadSrc) : Ctx :=
  match c.inflight.reverse with
  | e :: es => { c with inflight := es.reverse ++ [{ e with load := some x }] }
  | [] => c

/-- The reads of the loads in flight have been performed: a later store or LATOM of the context follows them (R89), or a
release that covers them is performed (R98). -/
def Ctx.settleLoads (c : Ctx) : Ctx :=
  { c with inflight := c.inflight.map InFlight.settle }

/-- The results of L-slot loads and LATOMs land (R101). -/
def Ctx.landLoads (c : Ctx) : Ctx := c.landWhere fun e => e.load.isSome

/-- Gives the destination of a result that has not landed an undefined value (R6); n numbers the free values. -/
def Ctx.undefine (c : Ctx) (e : InFlight) (n : Nat) : Ctx :=
  match e.dst with
  | some d => if e.fresh then c.store d (Config.freeBits n).toNat else c
  | none => c

/-- Gives every new destination in flight an undefined value. -/
def Ctx.undefineAll (c : Ctx) : List InFlight → Nat → Ctx
  | [], _ => c
  | e :: es, n => (c.undefine e n).undefineAll es (n + 1)

/-- Counts the bundle as issued, lands what is due, and leaves every other new destination undefined (R6, R7). -/
def Ctx.retire (c : Ctx) (n : Nat) : Ctx :=
  let c1 := { c with issued := c.issued + 1 }.landDue
  let c2 := c1.undefineAll c1.inflight n
  { c2 with inflight := c2.inflight.map fun e => { e with fresh := false } }

/-! ### Faults and traps -/

/-- Ends a context by a fatal report: every result in flight lands, and the report is recorded (R332, R347). The tract
ends by TRACT_END. The first fatal report stands. -/
def Ctx.fatalReport (c : Ctx) (r : Report) : Ctx :=
  let c1 := c.landAll.report r
  { c1 with fatal := some (c1.fatal.getD r) }

/-- A bundle-precise fault (class 1 of Table 16.1) of slot sl. -/
def Ctx.raise (c : Ctx) (code sl detail : Nat) : Ctx :=
  let c1 := c.fatalReport ⟨code, 1, sl, detail % 2 ^ 32⟩
  { c1 with issue := { c1.issue with raised := .fault } }

/-- Holds the bundle back: it is offered again later (R7, R44). -/
def Ctx.hold (c : Ctx) : Ctx := { c with issue := { c.issue with held := true } }

/-- Holds the bundle back with the context WAITING (R37, R162). -/
def Ctx.holdWaiting (c : Ctx) : Ctx := { c with status := .waiting, issue := { c.issue with held := true } }

/-- A LATOM of an earlier bundle is held for its release, so its result has still to land (R241). -/
def Ctx.latomBefore (c : Ctx) : Bool := c.latom.any fun h => decide (h.bundle < c.issued)

/-- TAKING THE DET TRAP (R50, R51, R154): the trapping bundle's address is the return point, a pending transfer is kept
aside, DET_READ is reported, INDET is set and the handler's entry bundle is next. It waits for the result of a held LATOM
(R137, R241). A trap inside a handler, or with no handler, is fatal. -/
def Ctx.detTrap (c : Ctx) (detail : Nat) : Ctx :=
  if c.indet then
    let c1 := c.raise 0x19 1 detail
    { c1 with issue := { c1.issue with raised := .det } }
  else
    match c.info.deth with
    | none =>
      let c1 := c.raise 0x1A 1 detail
      { c1 with issue := { c1.issue with raised := .det } }
    | some h =>
      if c.latomBefore then c.hold
      else
      let c1 := c.landAll.report ⟨0x18, 2, 1, detail % 2 ^ 32⟩
      { c1 with
        issued := c1.issued + 1
        trapPc := c.pc
        aside := c.xfer
        xfer := none
        mode := setBit c1.mode 5 true
        pc := h
        issue := { c1.issue with raised := .det } }

/-- The destination field of the S-slot word at a bundle offset (Table 6.8, SK). -/
def Ctx.slotSd (c : Ctx) (pc : Word32) : Nat := bitsOf (c.istore.num (pc.toNat + 4) 4) 14 6

/-- RETURNING FROM THE DET TRAP (R52, R154): the trapping bundle is next with the transfer kept aside, its S-slot read
is replaced by v, and INDET returns to 0. -/
def Ctx.detReturn (c : Ctx) (v : Word) : Ctx :=
  { c with
    tretVal := some (v, c.slotSd c.trapPc)
    xfer := c.aside
    aside := none
    mode := setBit c.mode 5 false
    issue := { c.issue with jump := some c.trapPc } }

/-! ### The sequence (R150, R157) -/

/-- Passes at the end of hardware loops: the innermost loop is the head of the list. -/
def loopNext (x : Word32) : List Loop → List Loop × Word32
  | [] => ([], x + 32)
  | l :: ls =>
    if x = l.last then
      if 1 < l.rem then ({ l with rem := l.rem - 1 } :: ls, l.first) else loopNext x ls
    else (l :: ls, x + 32)

/-- True when the target lies in the body of a loop. -/
def Loop.contains (l : Loop) (x : Word32) : Bool := decide (l.first ≤ x) && decide (x ≤ l.last)

/-- The target bundle of a taken transfer issues: loops whose body does not contain it are disarmed (R157). -/
def Ctx.arrive (c : Ctx) : Ctx :=
  match c.xfer with
  | some ⟨t, 0⟩ => { c with xfer := none, loops := c.loops.filter fun l => l.contains t }
  | _ => c

/-- True when the next bundle is a delay bundle (R152, R153). -/
def Ctx.inDelay (c : Ctx) : Bool :=
  match c.xfer with
  | some ⟨_, n⟩ => decide (n ≠ 0)
  | none => false

/-- The bundle after the present one in sequence: a bundle that a LOOP with count 0 or a TRET names, else succ. -/
def Ctx.goOn (c : Ctx) : Ctx :=
  match c.issue.jump with
  | some t => { c with pc := t }
  | none =>
    let r := loopNext c.pc c.loops
    { c with pc := r.2, loops := r.1 }

/-- Moves the program counter behind the bundle that has issued (R150, R152). old is the pending transfer that the
bundle started with. -/
def Ctx.advance (c : Ctx) (old : Option Xfer) : Ctx :=
  match old with
  | some ⟨t, 1⟩ => { c with pc := t, xfer := some ⟨t, 0⟩ }
  | some ⟨t, n⟩ => { c.goOn with xfer := some ⟨t, n - 1⟩ }
  | none => c.goOn

/-! ### Semaphores (R61, R164) -/

/-- The count of a semaphore; 0 beyond the partition. -/
def Ctx.semCount (c : Ctx) (i : Nat) : Word32 :=
  match c.sems[i]? with
  | some x => x.count
  | none => 0

/-- The marks of a semaphore. -/
def Ctx.semMarks (c : Ctx) (i : Nat) : Nat :=
  match c.sems[i]? with
  | some x => x.marks
  | none => 0

/-- sem.add of R10. -/
def Ctx.semAdd (c : Ctx) (i : Nat) (k : Word32) : Ctx :=
  { c with sems := modAt c.sems i fun x => { x with count := x.count + k } }

/-- Sets a count. -/
def Ctx.semSet (c : Ctx) (i : Nat) (v : Word32) : Ctx :=
  { c with sems := modAt c.sems i fun x => { x with count := v } }

/-- Changes the marks of a semaphore, from 0 to 255 (R339). -/
def Ctx.semMark (c : Ctx) (i : Nat) (f : Nat → Nat) : Ctx :=
  { c with sems := modAt c.sems i fun x => { x with marks := min 255 (f x.marks) } }

/-! ### Lent immediates (R132) -/

/-- The bits that an XIM of the bundle lends to slot sl. -/
def Ctx.lentTo (c : Ctx) (sl : Nat) : Option (BitVec 20) :=
  match c.issue.lent with
  | some (t, v) => if t.toNat = sl then some v else none
  | none => none

/-- A signed immediate of width n, widened by the lent bits. -/
def immS (lent : Option (BitVec 20)) (n : Nat) (f : BitVec n) : Int :=
  match lent with
  | some h => (h ++ f).toInt
  | none => f.toInt

/-- An unsigned immediate of width n, widened by the lent bits. -/
def immU (lent : Option (BitVec 20)) (n : Nat) (f : BitVec n) : Nat :=
  match lent with
  | some h => (h ++ f).toNat
  | none => f.toNat

/-! ### The context that issues -/

/-- Runs an operation on the context whose bundle is issuing; without one a slot instruction has no effect to give. -/
def onCur (s : State) (f : Ctx → Ctx) : Outcome State Fault Refusal :=
  match s.cur with
  | some c => .next { s with cur := some (f c) }
  | none => .refused .noContext

/-- An operation under its guard (R131). -/
def Ctx.when (c : Ctx) (g : Guard) (f : Ctx → Ctx) : Ctx := if c.guardOk g then f c else c

/-- Runs a guarded operation on the context whose bundle is issuing. -/
def slotRun (s : State) (g : Guard) (f : Ctx → Ctx) : Outcome State Fault Refusal := onCur s fun c => c.when g f

/-- The encoded word of a slot instruction, for DETAIL (Table 16.3). -/
def wordOf (i : Instr) : Nat :=
  match encode i with
  | some (_, w) => w.toNat
  | none => 0

/-! ### Contexts and sites of the module -/

/-- The context of a key. -/
def State.ctx (s : State) (k : CtxKey) : Option Ctx := s.ctxs.find? fun c => c.key = k

/-- Changes the context of a key. -/
def State.modCtx (s : State) (k : CtxKey) (f : Ctx → Ctx) : State :=
  { s with ctxs := s.ctxs.map fun c => if c.key = k then f c else c }

/-- A site; beyond the module, a site at reset that nothing uses. -/
def State.site (s : State) (i : Nat) : Site := s.sites.getD i Site.reset

/-- Changes a site. -/
def State.modSite (s : State) (i : Nat) (f : Site → Site) : State := { s with sites := modAt s.sites i f }

/-- A die. -/
def State.die (s : State) (d : Nat) : Die := s.dies.getD d Die.reset

/-- Changes a die. -/
def State.modDie (s : State) (d : Nat) (f : Die → Die) : State := { s with dies := modAt s.dies d f }

/-- A tract. -/
def State.tract (s : State) (t : Nat) : Option Tract := s.tracts.find? fun x => x.id = t

/-- Changes a tract. -/
def State.modTract (s : State) (t : Nat) (f : Tract → Tract) : State :=
  { s with tracts := s.tracts.map fun x => if x.id = t then f x else x }

/-- The contexts of a tract on the module's sites, by rank as they are listed. -/
def State.members (s : State) (t : Nat) : List Ctx := s.ctxs.filter fun c => c.key.tract = t

/-- Changes every context of a tract. -/
def State.modMembers (s : State) (t : Nat) (f : Ctx → Ctx) : State :=
  { s with ctxs := s.ctxs.map fun c => if c.key.tract = t then f c else c }

end Sys2Proof.Machine
end

