-- ==== Sys2Proof/Machine/Flags.lean ====
section
/-! DEFINITION. Tests and flags: the compare codes of Tables 7.15 and 8.5, the truth tables of FLOP and PLOGIC, and the
arithmetic modes of MODE (R112, R113). -/
namespace Sys2Proof.Machine

/-- An integer test of two n-bit codes (Tables 7.15 and 8.5); the codes of order and of NaN are refused by decode and
give false. sgd tells whether lt, ge, le and gt read the codes as two's complement. -/
def intTest (cc : Cc) (sgd : Bool) (n a b : Nat) : Bool :=
  let sa := if sgd then sextInt a n else (a : Int)
  let sb := if sgd then sextInt b n else (b : Int)
  match cc with
  | .eq => a == b
  | .ne => a != b
  | .lt => decide (sa < sb)
  | .ge => decide (sb ≤ sa)
  | .le => decide (sa ≤ sb)
  | .gt => decide (sb < sa)
  | .ltz => decide (a < b)
  | .gez => decide (b ≤ a)
  | .lez => decide (a ≤ b)
  | .gtz => decide (b < a)
  | .tst => a &&& b != 0
  | .ntst => a &&& b == 0
  | .un => false
  | .ord => false

/-- A floating-point test (Tables 7.15 and 8.5): unordered makes every test false but ne and un. -/
def fpTest (cc : Cc) (a b : Fv) : Bool :=
  let un := a.isNan || b.isNan
  let d := a.cmp b
  match cc with
  | .eq => !un && d == 0
  | .ne => un || d != 0
  | .lt => !un && decide (d < 0)
  | .ge => !un && decide (0 ≤ d)
  | .le => !un && decide (d ≤ 0)
  | .gt => !un && decide (0 < d)
  | .un => un
  | .ord => !un
  | _ => false

/-- TT[2a + b] of a truth table (R180, R197). -/
def truth (tt : BitVec 4) (a b : Bool) : Bool := tt.getLsbD (2 * a.toNat + b.toNat)

/-- MODE.ARITH.RM as the rounding of S, VA and VB arithmetic (R112, R113). -/
def Ctx.round (c : Ctx) : Round := if c.mode.getLsbD 8 then .rtz else .rne

/-- Stochastic rounding draws from the free-running source: SRFREE outside DET mode (R112, R116). -/
def Ctx.srFree (c : Ctx) : Bool := c.mode.getLsbD 10 && !c.det

end Sys2Proof.Machine
end

