-- ==== Sys2Proof/Machine/Operands.lean ====
section
/-! DEFINITION. Operand forms: LM offsets and their checks (R237), addresses in global memory and in peers' LM (R64,
R66), the fields of a copy control operand (R242), and the access that an ATOM.acq or a release LATOM holds back
(R241, R249). -/
namespace Sys2Proof.Machine

/-! ### Fault codes of Table 16.3 -/

namespace Code
def fetchRange : Nat := 0x01
def illInsn : Nat := 0x02
def illBundle : Nat := 0x03
def resOpnd : Nat := 0x04
def misalign : Nat := 0x05
def delayXfer : Nat := 0x06
def loopDepth : Nat := 0x07
def loopNest : Nat := 0x08
def loopCall : Nat := 0x09
def repmBusy : Nat := 0x0A
def repmTarget : Nat := 0x0B
def trap : Nat := 0x0C
def lmRange : Nat := 0x10
def tsRange : Nat := 0x11
def asRange : Nat := 0x12
def semRange : Nat := 0x13
def noncanon : Nat := 0x14
def detFadd : Nat := 0x1B
def scaleTable : Nat := 0x20
def scaleShort : Nat := 0x21
def chainParam : Nat := 0x22
def chainFull : Nat := 0x23
def chainOpen : Nat := 0x24
def chainState : Nat := 0x25
def treeAlign : Nat := 0x26
def mmagTract : Nat := 0x27
def mmagMismatch : Nat := 0x28
def cpy2Rec : Nat := 0x2C
def atomxRec : Nat := 0x2D
def rrecBad : Nat := 0x2E
def notMapped : Nat := 0x30
def malformed : Nat := 0x31
def perm : Nat := 0x32
def remoteTarget : Nat := 0x33
def atomxRoutine : Nat := 0x34
def poison : Nat := 0x38
def cutAtExit : Nat := 0x3A
end Code

/-! ### Partition sizes (Table 3.1) -/

/-- Bytes of the LM partition. -/
def Ctx.lmSize (c : Ctx) : Nat := c.part.lm * 65536
/-- Bytes of the TS partition: 128 rows of 256 bytes to a unit. -/
def Ctx.tsSize (c : Ctx) : Nat := c.part.ts * 32768
/-- Bytes of the AS partition. -/
def Ctx.asSize (c : Ctx) : Nat := c.part.as * 65536
/-- Bytes of the instruction store region. -/
def Ctx.isSize (c : Ctx) : Nat := c.part.is * 4096

/-! ### LM offsets (R237) -/

/-- (a(aa) + disp) mod 2^64. -/
def Ctx.lmOff (c : Ctx) (aa : BitVec 5) (disp : Int) : Nat := wrap ((c.ra aa).toNat + disp) 64

/-- DETAIL of POISON: the space in [2:0], the word, row, plane or semaphore from bit 8 on (Table 16.3). -/
def poisonDetail (space unit : Nat) : Nat := space + unit * 256

/-- The fault of LM accesses of n bytes at each offset, as a code and DETAIL: MISALIGN before LM_RANGE, each over all
pieces, then POISON where the access consumes one (R237, R345); reads says that it reads, and does not store. DESIGN CHOICE
(assumption 135): of several offending pieces or elements DETAIL names the lowest-numbered one, by its first byte. -/
def Ctx.lmFault (c : Ctx) (offs : List Nat) (n align : Nat) (reads : Bool) : Option (Nat × Nat) :=
  match offs.find? fun o => o % align != 0 with
  | some o => some (Code.misalign, o)
  | none =>
    match offs.find? fun o => decide (c.lmSize < o + n) with
    | some o => some (Code.lmRange, o)
    | none =>
      let words := offs.flatMap fun o => tabulate ((o % 8 + n + 7) / 8) fun i => o / 8 + i
      let hit := words.find? fun w =>
        c.poisonLm.contains w &&
          (reads || offs.any fun o => poisonHit [w] 8 o n && !(decide (o ≤ w * 8) && decide (w * 8 + 8 ≤ o + n)))
      match hit with
      | some w => some (Code.poison, poisonDetail 0 w)
      | none => none

/-! ### Accesses held back (R241, R249) -/

/-- True while an ATOM.acq or RATOM.acq of an earlier bundle has not been performed at its home (R249). -/
def Ctx.acqPending (c : Ctx) : Bool :=
  c.ops.any fun o => o.ord = .acq && o.next = 0 && decide (o.bundle < c.issued)

/-- True while an L-slot access has to wait: behind an ATOM.acq (R249) or behind a release LATOM (R241). -/
def Ctx.lmHeld (c : Ctx) : Bool := c.acqPending || c.latom.isSome

/-- An L-slot access under its checks: the fault, if any; else a stall behind what holds it back; else its effect. -/
def Ctx.access (c : Ctx) (fault : Option (Nat × Nat)) (f : Ctx → Ctx) : Ctx :=
  match fault with
  | some (code, d) => c.raise code 5 d
  | none => if c.lmHeld then c.hold else f c

/-! ### What an operation has performed (R88, R97, R98) -/

/-- A release: RSIG, ATOM or RATOM with .rel. -/
def Op.isRelease (o : Op) : Bool :=
  match o.ord with
  | .rel _ => true
  | _ => false

/-- The scope of an operation that releases; of any other none is asked. -/
def Op.scope (o : Op) : Scope :=
  match o.ord with
  | .rel sc => sc
  | _ => .dom

/-- An atomic of a copy engine. -/
def Op.isAtom (o : Op) : Bool :=
  match o.kind with
  | .atom | .fadd | .atomx | .ratom => true
  | _ => false

/-- All requests of an operation have been made. -/
def Op.allSent (o : Op) : Bool :=
  match o.kind with
  | .atom | .fadd | .atomx | .ratom | .rsig => o.sent
  | _ => decide (o.total ≤ o.next)

/-- Requests of an operation whose writes are performed at a scope, though not yet at their homes (R88). -/
def Op.passed (o : Op) (sc : Scope) : Nat :=
  match sc with
  | .tile => o.outTile
  | .die => o.outDie
  | .pkg => o.outPkg
  | .dom => 0

/-- Every read of an operation has taken its value, and every write of it is performed at a scope (R88, R98). -/
def Op.doneAt (o : Op) (sc : Scope) : Bool :=
  o.fault.isNone && o.cut.isNone && o.allSent && (!o.isAtom || o.next == 1) && decide (o.out ≤ o.passed sc)

/-- The writes of an operation to places beyond own LM are performed at a scope: of an atomic, that of its location, which its
request carries until it has been performed at its home (R88). -/
def Op.writesDone (o : Op) (sc : Scope) : Bool :=
  if o.isAtom then o.fault.isNone && (o.next == 1 || (o.sent && decide (1 ≤ o.passed sc))) else o.doneAt sc

/-- Every access of the context that happens before its release of bundle b at a scope has been performed there (R97, R98);
entry self is the release itself. Other releases of the bundle are not covered, a relaxed SIG of it is. -/
def Ctx.covered (c : Ctx) (b : Nat) (self : Option Nat) (sc : Scope) : Bool :=
  c.ops.all (fun o => some o.e == self || decide (b < o.origin) || (o.origin == b && o.isRelease) || o.doneAt sc) &&
    c.mq.all (fun m => decide (b < m.bundle)) && c.rels.all (fun r => decide (b < r.bundle) || (r.bundle == b && r.covers)) &&
    c.latom.all (fun h => decide (b ≤ h.bundle)) && c.failed.all fun n => decide (b < n)

/-! ### Global and remote addresses (R64, R66) -/

/-- A canonical address: bits [63:57] equal bit 56 (R64). -/
def canonical (v : Word) : Bool := bitsOf v.toNat 56 8 == 0 || bitsOf v.toNat 56 8 == 0xFF

/-- VA[56]: the remote window (Table 3.3). -/
def remoteWin (v : Nat) : Bool := bitsOf v 56 1 == 1

/-- DEV of a remote-window address. -/
def winDev (v : Nat) : Nat := bitsOf v 47 9

/-- DEV of a remote LM address (Table 3.4). -/
def rlDev (v : Nat) : Nat := bitsOf v 55 9
/-- GRANK of a remote LM address. -/
def rlGrank (v : Nat) : Nat := bitsOf v 46 9
/-- TRANK of a remote LM address. -/
def rlTrank (v : Nat) : Nat := bitsOf v 38 8
/-- OFF of a remote LM address. -/
def rlOff (v : Nat) : Nat := bitsOf v 0 21

/-- Reserved bits of a remote LM address are zero; for a semaphore operand also OFF[20:8] (R66). -/
def rlClean (v : Word) (isSem : Bool) : Bool := bitsOf v.toNat 21 17 == 0 && (!isSem || bitsOf v.toNat 8 13 == 0)

/-! ### The copy control operand (Table 0.1, Table 10.3) -/

/-- LEN. -/
def ctlLen (w : Word) : Nat := bitsOf w.toNat 0 40
/-- SEM. -/
def ctlSem (w : Word) : Nat := bitsOf w.toNat 40 7
/-- INC. -/
def ctlInc (w : Word) : Word32 := BitVec.ofNat 32 (bitsOf w.toNat 48 8)
/-- FLAGS. -/
def ctlFlags (w : Word) : Nat := bitsOf w.toNat 56 8
/-- SSP: the source is own LM. -/
def ctlSsp (w : Word) : Bool := bitsOf w.toNat 56 1 == 1
/-- DSP: the destination is LM. -/
def ctlDsp (w : Word) : Bool := bitsOf w.toNat 57 1 == 1
/-- RET: an atomic writes the old value to the issuer's LM. -/
def ctlRet (w : Word) : Bool := bitsOf w.toNat 58 1 == 1
/-- The element size that GSZ selects. -/
def ctlGsz (w : Word) : Nat :=
  match bitsOf w.toNat 59 2 with
  | 0 => 8
  | 1 => 32
  | 2 => 64
  | _ => 256

/-- Every control bit that the operation does not use is zero: FLAGS outside used, bit 47, and LEN from lenBits up
(R242). -/
def ctlClean (w : Word) (used lenBits : Nat) : Bool :=
  ctlFlags w &&& (0xFF - used) == 0 && bitsOf w.toNat 47 1 == 0 && bitsOf w.toNat lenBits (40 - lenBits) == 0

end Sys2Proof.Machine
end

