-- ==== Sys2Proof/Machine/Control.lean ====
section
/-! DEFINITION. The B slot (R150 to R172): branches, loops, repetition, waits, signals, fences, traps and exit. An XIM
sits in the B slot itself, so no B-slot immediate is ever widened (R132). -/
namespace Sys2Proof.Machine
open Host

/-- NOP (R129): no effect. -/
def execNop (s : State) : Outcome State Fault Refusal := onCur s id

/-- XIM (R132): the slot tgt of this bundle reads the 20 lent bits. -/
def execXim (tgt : BitVec 3) (imm : BitVec 20) (s : State) : Outcome State Fault Refusal :=
  onCur s fun c => { c with issue := { c.issue with lent := some (tgt, imm) } }

/-! ### Transfers (R151 to R154) -/

/-- BPRE (R151): b(bd) := pc + 32 * sext(OFF), bound 1. -/
def execBpre (g : Guard) (bd : BitVec 3) (off : BitVec 17) (s : State) : Outcome State Fault Refusal :=
  slotRun s g fun c => c.push (.b bd.toNat) (wrap (c.pc.toNat + 32 * off.toInt) 32) 1

/-- BPRES (R151): b(bd) := s(sa)[31:0], bound 1. -/
def execBpres (g : Guard) (bd : BitVec 3) (sa : BitVec 6) (s : State) : Outcome State Fault Refusal :=
  slotRun s g fun c => c.push (.b bd.toNat) ((c.rs sa).toNat % 2 ^ 32) 1

/-- A taken transfer to t (R152): not in a delay bundle (R153), a CALL not while a loop is armed (R157), and to a
multiple of 32 (R62). Two delay bundles are still to issue. -/
def Ctx.transfer (c : Ctx) (w : Nat) (t : Word32) (isCall : Bool) : Ctx :=
  if c.inDelay then c.raise Code.delayXfer 0 w
  else if isCall && !c.loops.isEmpty then c.raise Code.loopCall 0 w
  else if t.toNat % 32 != 0 then c.raise Code.misalign 0 t.toNat
  else { c with xfer := some ⟨t, 2⟩ }

/-- BR (R152). -/
def execBr (g : Guard) (bt : BitVec 3) (s : State) : Outcome State Fault Refusal :=
  slotRun s g fun c => c.transfer (wordOf (.br g bt)) (c.rb bt) false

/-- CALL (R152): as BR, and b7 := pc + 96, bound 1. -/
def execCall (g : Guard) (bt : BitVec 3) (s : State) : Outcome State Fault Refusal :=
  slotRun s g fun c =>
    let c1 := c.transfer (wordOf (.call g bt)) (c.rb bt) true
    if c1.issue.raised = .fault then c1 else c1.push (.b 7) (c.pc + 96).toNat 1

/-- RET (R152): to b7. -/
def execRet (g : Guard) (s : State) : Outcome State Fault Refusal :=
  slotRun s g fun c => c.transfer (wordOf (.ret g)) (c.rb 7) false

/-! ### Loops and repetition (R155 to R159) -/

/-- Arms a loop over the nb bundles that follow, for n passes (R155, R156); with no pass the body is skipped. -/
def Ctx.armLoop (c : Ctx) (w nb n : Nat) : Ctx :=
  let last := c.pc.toNat + 32 * nb
  if n = 0 then { c with issue := { c.issue with jump := some (BitVec.ofNat 32 (last + 32)) } }
  else if c.inDelay then c.raise Code.delayXfer 0 w
  else if 2 ≤ c.loops.length then c.raise Code.loopDepth 0 w
  else if c.loops.any fun l => decide (l.last.toNat < last) then c.raise Code.loopNest 0 w
  else { c with loops := ⟨c.pc + 32, BitVec.ofNat 32 last, n⟩ :: c.loops }

/-- LOOP (R155), immediate count. -/
def execLoop (g : Guard) (len : BitVec 6) (cnt : BitVec 13) (s : State) : Outcome State Fault Refusal :=
  slotRun s g fun c => c.armLoop (wordOf (.loop g len cnt)) (len.toNat + 1) cnt.toNat

/-- LOOP with a register count, s(sa)[32:0] (R155). -/
def execLoopReg (g : Guard) (len sa : BitVec 6) (s : State) : Outcome State Fault Refusal :=
  slotRun s g fun c => c.armLoop (wordOf (.loopReg g len sa)) (len.toNat + 1) (bitsOf (c.rs sa).toNat 0 33)

/-- Leaves a repeat count pending (R158); a count of 0 arms nothing and clears nothing (R159). -/
def Ctx.armRepm (c : Ctx) (w n : Nat) : Ctx :=
  if n = 0 then c
  else if c.repm.isSome then c.raise Code.repmBusy 0 w
  else { c with repm := some n }

/-- REPM (R158), immediate count. -/
def execRepm (g : Guard) (n : BitVec 19) (s : State) : Outcome State Fault Refusal :=
  slotRun s g fun c => c.armRepm (wordOf (.repm g n)) n.toNat

/-- REPM with a register count, s(sa)[38:0] (R158). -/
def execRepmReg (g : Guard) (sa : BitVec 6) (s : State) : Outcome State Fault Refusal :=
  slotRun s g fun c => c.armRepm (wordOf (.repmReg g sa)) (bitsOf (c.rs sa).toNat 0 39)

/-! ### Semaphores (R162 to R164) -/

/-- A semaphore instruction under its checks: SEM_RANGE (R57), POISON (R345), a stall behind an ATOM.acq (R249). -/
def Ctx.onSem (c : Ctx) (sl sem : Nat) (f : Ctx → Ctx) : Ctx :=
  if c.sems.length ≤ sem then c.raise Code.semRange sl sem
  else if c.poisonSem.contains sem then c.raise Code.poison sl (poisonDetail 4 sem)
  else if c.acqPending then c.hold
  else f c

/-- A SIG of an earlier bundle on this semaphore has not been performed: a later operation of the context on that
semaphore comes behind it (R164). -/
def Ctx.relPending (c : Ctx) (sem : Nat) : Bool := c.rels.any fun r => r.sem = sem && decide (r.bundle < c.issued)

/-- WAIT and WAITD (R162, R341): retires by its count, once the context's earlier SIGs on the semaphore are performed
(R164), or in fault by marks, else the context is WAITING. -/
def Ctx.waitOn (c : Ctx) (sem n : Nat) (sub : Bool) : Ctx :=
  c.onSem 0 sem fun c =>
    if n ≤ (c.semCount sem).toNat then
      if c.relPending sem then c.holdWaiting
      else
        let c1 := c.setWcut false
        if sub then c1.semSet sem (c.semCount sem - BitVec.ofNat 32 n) else c1
    else if c.semMarks sem != 0 then c.setWcut true
    else c.holdWaiting

/-- WAIT (R162). Homes hold no copies (R86) and accesses are performed in issue order here, so the acquire of ACQ = 1
needs no further effect. -/
def execWait (g : Guard) (sem n : BitVec 8) (_acq : Bool) (s : State) : Outcome State Fault Refusal :=
  slotRun s g fun c => c.waitOn sem.toNat n.toNat false

/-- WAITD (R162). -/
def execWaitd (g : Guard) (sem n : BitVec 8) (_acq : Bool) (s : State) : Outcome State Fault Refusal :=
  slotRun s g fun c => c.waitOn sem.toNat n.toNat true

/-- SIG (R163): relaxed, the increment at once, or behind that of an earlier SIG on the semaphore (R164); a release, the
increment when R98 allows (RELEASE_PERFORM). -/
def execSig (g : Guard) (sem inc : BitVec 8) (sc : Scope) (rel : Bool) (s : State) : Outcome State Fault Refusal :=
  slotRun s g fun c => c.onSem 0 sem.toNat fun c =>
    let k : Word32 := inc.zeroExtend 32
    if rel || c.relPending sem.toNat then { c with rels := c.rels ++ [⟨sem.toNat, k, sc, c.issued, rel⟩] }
    else c.semAdd sem.toNat k

/-- SEMSET (R163). -/
def execSemset (g : Guard) (sem : BitVec 8) (v : BitVec 12) (s : State) : Outcome State Fault Refusal :=
  slotRun s g fun c => c.onSem 0 sem.toNat fun c =>
    if c.relPending sem.toNat then c.hold else c.semSet sem.toNat (v.zeroExtend 32)

/-! ### Events (R165, R166) -/

/-- EVWAIT (R166); in DET mode it retires at once. -/
def execEvwait (g : Guard) (mask : BitVec 16) (s : State) : Outcome State Fault Refusal :=
  slotRun s g fun c => if c.det || c.events &&& mask.zeroExtend 64 != 0 then c else c.holdWaiting

/-- EVCLR (R166). -/
def execEvclr (g : Guard) (mask : BitVec 16) (s : State) : Outcome State Fault Refusal :=
  slotRun s g fun c => { c with events := c.events &&& ~~~(mask.zeroExtend 64) }

/-! ### Fences (R100, R101, R167) -/

/-- True for an operation that writes global memory, or the LM or semaphores of other contexts (R100). -/
def Op.writesOut (o : Op) : Bool :=
  match o.kind with
  | .cpy | .cpy2 | .cpya | .cpyz => !ctlDsp o.ctl
  | .cpyt | .cpylt | .cpyg | .rget => false
  | .atom | .fadd | .atomx | .rst | .rsts | .rcpy | .rsig | .mcast | .ratom => true

/-- True when every access of the bundles before n has been performed at a scope, loads apart (R98, R101). -/
def Ctx.quiet (c : Ctx) (n : Nat) (sc : Scope) : Bool :=
  c.ops.all (fun o => decide (n ≤ o.origin) || o.doneAt sc) && c.mq.all (fun m => decide (n ≤ m.bundle)) &&
    c.rels.all (fun r => decide (n ≤ r.bundle)) && !c.latom.any fun h => decide (h.bundle < n)

/-- FENCE (R101): holds its bundle until every earlier access is performed at the scope; then the loads of earlier bundles land,
and the old values of their LATOMs. -/
def execFence (g : Guard) (sc : Scope) (s : State) : Outcome State Fault Refusal :=
  slotRun s g fun c => if c.quiet c.issued sc then c.landWhere fun e => !e.fresh && e.load.isSome else c.holdWaiting

/-- FNI (R100): the token captures the writes of bundles up to this one. The B slot runs last, and no other slot reads
ft, so bound 1 shows as an immediate write. -/
def execFni (g : Guard) (ft : BitVec 3) (sc : Scope) (s : State) : Outcome State Fault Refusal :=
  slotRun s g fun c => c.setFt ft ⟨some c.issued, sc⟩

/-- The operations that a token captured and whose writes are not all performed at its scope (R100). A continuation is
captured by its CPYR's bundle (R254). -/
def Ctx.captured (c : Ctx) (t : Token) : List Op :=
  match t.upto with
  | some n => c.ops.filter fun o => o.writesOut && decide (o.bundle ≤ n) && !o.writesDone t.scope
  | none => []

/-- FNW (R100, R341): retires in fault when a captured operation is cut, or when all are performed. -/
def execFnw (g : Guard) (ft : BitVec 3) (s : State) : Outcome State Fault Refusal :=
  slotRun s g fun c =>
    let l := c.captured (c.rft ft)
    if l.any fun o => o.cut.isSome then c.setWcut true
    else if l.isEmpty then c.setWcut false
    else c.holdWaiting

/-! ### Traps, requests and exit (R168 to R172) -/

/-- TRAP (R168): bundle-precise and fatal, with its code. -/
def execTrap (g : Guard) (code : BitVec 16) (s : State) : Outcome State Fault Refusal :=
  slotRun s g fun c => { c.raise Code.trap 0 code.toNat with trapCode := code }

/-- TRET (R52, R169): illegal in a delay bundle (R153) and outside a handler. -/
def execTret (g : Guard) (sv : BitVec 6) (s : State) : Outcome State Fault Refusal :=
  slotRun s g fun c =>
    if c.inDelay then c.raise Code.delayXfer 0 (wordOf (.tret g sv))
    else if c.indet then c.detReturn (c.rs sv)
    else c.raise Code.illInsn 0 (wordOf (.tret g sv))

/-- SYS (R170): the request goes to the distributor and the context is WAITING until the reply lands in s62. -/
def execSys (g : Guard) (code : BitVec 16) (s : State) : Outcome State Fault Refusal :=
  slotRun s g fun c => { c with status := .waiting, sys := some ⟨code, c.rs 60, c.rs 61, false⟩ }

/-- YIELD (R171): the boundary after this bundle may switch a pre-emptible bulk tract out. -/
def execYield (g : Guard) (s : State) : Outcome State Fault Refusal :=
  slotRun s g fun c => { c with yielded := c.yielded || (!c.express && c.preempt) }

/-- The report of an EXIT with cut operations (R342): class 4 and their number. DESIGN CHOICE (assumption 142): where cut operations
lie in both engines SLOT is 6. -/
def cutAtExit (cuts : List Op) : Report :=
  ⟨Code.cutAtExit, 4, (if cuts.any fun o => decide (o.e < 32) then 6 else 7), cuts.length⟩

/-- EXIT (R40, R159, R172): every result lands, the context is EXITED, its loops, its pending transfer and its
pending count are discarded. It waits for the result of a held LATOM of an earlier bundle (R241). With a cut operation
the tract ends (R342). -/
def execExit (g : Guard) (s : State) : Outcome State Fault Refusal :=
  slotRun s g fun c =>
    let c1 := { c.landAll with
      status := .exited, loops := [], xfer := none, aside := none, repm := none, tretVal := none,
      mode := setBit c.landAll.mode 5 false }
    let cuts := c1.ops.filter fun o => o.cut.isSome
    if !cuts.isEmpty then c1.fatalReport (cutAtExit cuts)
    else if c.latomBefore then c.hold
    else c1

end Sys2Proof.Machine
end

