-- ==== Sys2Proof/Machine/Scalar.lean ====
section
/-! DEFINITION. The integer part of the S slot (R173 to R181, R184 to R187): the ALU, bit fields, flags, copies between
files, control and status registers, and reads of semaphores. -/
namespace Sys2Proof.Machine
open Host

/-- land(s_sd, v, l). -/
def Ctx.putS (c : Ctx) (sd : BitVec 6) (v : Word) (l : Nat) : Ctx := c.push (.s sd.toNat) v.toNat l

/-- A register ALU instruction: sd := f(s(sa), s(sb)) with bound l (R173, R174). -/
def alu (s : State) (g : Guard) (sd sa sb : BitVec 6) (l : Nat) (f : Word → Word → Word) :
    Outcome State Fault Refusal :=
  slotRun s g fun c => c.putS sd (f (c.rs sa) (c.rs sb)) l

/-- An immediate ALU instruction: the immediate, 8 bits or 28 widened, sign-extended to 64 (R176). -/
def aluI (s : State) (g : Guard) (sd sa : BitVec 6) (imm : BitVec 8) (f : Word → Word → Word) :
    Outcome State Fault Refusal :=
  slotRun s g fun c => c.putS sd (f (c.rs sa) (BitVec.ofInt 64 (immS (c.lentTo 1) 8 imm))) 1

/-- An immediate shift: the amount is not widened (R176). -/
def aluSh (s : State) (g : Guard) (sd sa : BitVec 6) (imm : BitVec 8) (f : Word → Nat → Word) :
    Outcome State Fault Refusal :=
  slotRun s g fun c => c.putS sd (f (c.rs sa) imm.toNat) 1

/-- The amount of a register shift, b[5:0] (R174). -/
def shAmt (b : Word) : Nat := b.toNat % 64

/-! ### Register ALU (Table 7.12) -/

/-- ADD (Table 7.12): (a + b) mod 2^64. -/
def execAdd (g : Guard) (sd sa sb : BitVec 6) (s : State) : Outcome State Fault Refusal :=
  alu s g sd sa sb 1 fun a b => a + b

/-- SUB (Table 7.12): (a - b) mod 2^64. -/
def execSub (g : Guard) (sd sa sb : BitVec 6) (s : State) : Outcome State Fault Refusal :=
  alu s g sd sa sb 1 fun a b => a - b

/-- MUL (Table 7.12): (a * b) mod 2^64. -/
def execMul (g : Guard) (sd sa sb : BitVec 6) (s : State) : Outcome State Fault Refusal :=
  alu s g sd sa sb 3 fun a b => a * b

/-- MULH (Table 7.12): the signed product >> 64. -/
def execMulh (g : Guard) (sd sa sb : BitVec 6) (s : State) : Outcome State Fault Refusal :=
  alu s g sd sa sb 3 fun a b => BitVec.ofInt 64 (a.toInt * b.toInt / 2 ^ 64)

/-- MULHZ (Table 7.12): (a * b) >> 64. -/
def execMulhz (g : Guard) (sd sa sb : BitVec 6) (s : State) : Outcome State Fault Refusal :=
  alu s g sd sa sb 3 fun a b => BitVec.ofNat 64 (a.toNat * b.toNat / 2 ^ 64)

/-- sa' div sb' truncated towards zero; a zero divisor gives all ones, and -2^63 by -1 wraps (R175). -/
def divS (a b : Word) : Word := if b = 0 then BitVec.allOnes 64 else BitVec.ofInt 64 (a.toInt.tdiv b.toInt)

/-- a div b; a zero divisor gives all ones (R175). -/
def divU (a b : Word) : Word := if b = 0 then BitVec.allOnes 64 else BitVec.ofNat 64 (a.toNat / b.toNat)

/-- The remainder of divS; a zero divisor gives the dividend (R175). -/
def remS (a b : Word) : Word := if b = 0 then a else BitVec.ofInt 64 (a.toInt - b.toInt * a.toInt.tdiv b.toInt)

/-- The remainder of divU; a zero divisor gives the dividend (R175). -/
def remU (a b : Word) : Word := if b = 0 then a else BitVec.ofNat 64 (a.toNat - b.toNat * (a.toNat / b.toNat))

/-- DIV (Table 7.12): signed quotient. -/
def execDiv (g : Guard) (sd sa sb : BitVec 6) (s : State) : Outcome State Fault Refusal :=
  alu s g sd sa sb 24 fun a b => divS a b

/-- DIVZ (Table 7.12): unsigned quotient. -/
def execDivz (g : Guard) (sd sa sb : BitVec 6) (s : State) : Outcome State Fault Refusal :=
  alu s g sd sa sb 24 fun a b => divU a b

/-- REM (Table 7.12): signed remainder. -/
def execRem (g : Guard) (sd sa sb : BitVec 6) (s : State) : Outcome State Fault Refusal :=
  alu s g sd sa sb 24 fun a b => remS a b

/-- REMZ (Table 7.12): unsigned remainder. -/
def execRemz (g : Guard) (sd sa sb : BitVec 6) (s : State) : Outcome State Fault Refusal :=
  alu s g sd sa sb 24 fun a b => remU a b

/-- AND (Table 7.12): a & b. -/
def execAnd (g : Guard) (sd sa sb : BitVec 6) (s : State) : Outcome State Fault Refusal :=
  alu s g sd sa sb 1 fun a b => a &&& b

/-- OR (Table 7.12): a | b. -/
def execOr (g : Guard) (sd sa sb : BitVec 6) (s : State) : Outcome State Fault Refusal :=
  alu s g sd sa sb 1 fun a b => a ||| b

/-- XOR (Table 7.12): a ^ b. -/
def execXor (g : Guard) (sd sa sb : BitVec 6) (s : State) : Outcome State Fault Refusal :=
  alu s g sd sa sb 1 fun a b => a ^^^ b

/-- SHL (Table 7.12): (a << b[5:0]) mod 2^64. -/
def execShl (g : Guard) (sd sa sb : BitVec 6) (s : State) : Outcome State Fault Refusal :=
  alu s g sd sa sb 1 fun a b => a <<< shAmt b

/-- SHR (Table 7.12): a >> b[5:0]. -/
def execShr (g : Guard) (sd sa sb : BitVec 6) (s : State) : Outcome State Fault Refusal :=
  alu s g sd sa sb 1 fun a b => a >>> shAmt b

/-- SRA (Table 7.12): the signed value >> b[5:0]. -/
def execSra (g : Guard) (sd sa sb : BitVec 6) (s : State) : Outcome State Fault Refusal :=
  alu s g sd sa sb 1 fun a b => a.sshiftRight (shAmt b)

/-- MIN (Table 7.12): the lesser, signed. -/
def execMin (g : Guard) (sd sa sb : BitVec 6) (s : State) : Outcome State Fault Refusal :=
  alu s g sd sa sb 1 fun a b => if a.toInt ≤ b.toInt then a else b

/-- MAX (Table 7.12): the greater, signed. -/
def execMax (g : Guard) (sd sa sb : BitVec 6) (s : State) : Outcome State Fault Refusal :=
  alu s g sd sa sb 1 fun a b => if a.toInt ≤ b.toInt then b else a

/-- MINZ (Table 7.12): the lesser, unsigned. -/
def execMinz (g : Guard) (sd sa sb : BitVec 6) (s : State) : Outcome State Fault Refusal :=
  alu s g sd sa sb 1 fun a b => if a.toNat ≤ b.toNat then a else b

/-- MAXZ (Table 7.12): the greater, unsigned. -/
def execMaxz (g : Guard) (sd sa sb : BitVec 6) (s : State) : Outcome State Fault Refusal :=
  alu s g sd sa sb 1 fun a b => if a.toNat ≤ b.toNat then b else a

/-! ### Immediate ALU (R176) -/

/-- ADDI (R176). -/
def execAddi (g : Guard) (sd sa : BitVec 6) (imm : BitVec 8) (s : State) : Outcome State Fault Refusal :=
  aluI s g sd sa imm fun a b => a + b

/-- ANDI (R176). -/
def execAndi (g : Guard) (sd sa : BitVec 6) (imm : BitVec 8) (s : State) : Outcome State Fault Refusal :=
  aluI s g sd sa imm fun a b => a &&& b

/-- ORI (R176). -/
def execOri (g : Guard) (sd sa : BitVec 6) (imm : BitVec 8) (s : State) : Outcome State Fault Refusal :=
  aluI s g sd sa imm fun a b => a ||| b

/-- XORI (R176). -/
def execXori (g : Guard) (sd sa : BitVec 6) (imm : BitVec 8) (s : State) : Outcome State Fault Refusal :=
  aluI s g sd sa imm fun a b => a ^^^ b

/-- SHLI (R176). -/
def execShli (g : Guard) (sd sa : BitVec 6) (imm : BitVec 8) (s : State) : Outcome State Fault Refusal :=
  aluSh s g sd sa imm fun a n => a <<< n

/-- SHRI (R176). -/
def execShri (g : Guard) (sd sa : BitVec 6) (imm : BitVec 8) (s : State) : Outcome State Fault Refusal :=
  aluSh s g sd sa imm fun a n => a >>> n

/-- SRAI (R176). -/
def execSrai (g : Guard) (sd sa : BitVec 6) (imm : BitVec 8) (s : State) : Outcome State Fault Refusal :=
  aluSh s g sd sa imm fun a n => a.sshiftRight n

/-! ### Flags, selection and constants (R177 to R181) -/

/-- CMP (R179): flag fd := the test of s(sa) against s(sb), bound 1. -/
def execCmp (g : Guard) (fd : BitVec 3) (cc : Cc) (sa sb : BitVec 6) (s : State) : Outcome State Fault Refusal :=
  slotRun s g fun c => c.push (.f fd.toNat) (intTest cc true 64 (c.rs sa).toNat (c.rs sb).toNat).toNat 1

/-- CMPI (R179): as CMP, against the immediate, 7 bits or 27 widened, sign-extended to 64. -/
def execCmpi (g : Guard) (fd : BitVec 3) (cc : Cc) (sa : BitVec 6) (imm : BitVec 7) (s : State) :
    Outcome State Fault Refusal :=
  slotRun s g fun c =>
    c.push (.f fd.toNat) (intTest cc true 64 (c.rs sa).toNat (wrap (immS (c.lentTo 1) 7 imm) 64)).toNat 1

/-- FLOP (R180): fd := TT[2 f(fa) + f(fb)], bound 1. -/
def execFlop (g : Guard) (fd fa fb : BitVec 3) (tt : BitVec 4) (s : State) : Outcome State Fault Refusal :=
  slotRun s g fun c => c.push (.f fd.toNat) (truth tt (c.rf fa) (c.rf fb)).toNat 1

/-- SEL (R181): s(sa) when f(fc), else s(sb); sb names s0 to s31. -/
def execSel (g : Guard) (sd sa : BitVec 6) (sb : BitVec 5) (fc : BitVec 3) (s : State) :
    Outcome State Fault Refusal :=
  slotRun s g fun c => c.putS sd (if c.rf fc then c.rs sa else c.rs (sb.zeroExtend 6)) 1

/-- The constant of MOVI and MOVHI: 14 bits, or 34 widened, signed (R177). -/
def Ctx.movImm (c : Ctx) (imm : BitVec 14) : Int := immS (c.lentTo 1) 14 imm

/-- MOVI (R177): sd := sext(v, 34). -/
def execMovi (g : Guard) (sd : BitVec 6) (imm : BitVec 14) (s : State) : Outcome State Fault Refusal :=
  slotRun s g fun c => c.putS sd (BitVec.ofInt 64 (c.movImm imm)) 1

/-- MOVHI (R177): sd := cat(v[33:0], sd[29:0]). -/
def execMovhi (g : Guard) (sd : BitVec 6) (imm : BitVec 14) (s : State) : Outcome State Fault Refusal :=
  slotRun s g fun c => c.putS sd (BitVec.ofInt 34 (c.movImm imm) ++ (c.rs sd).extractLsb' 0 30) 1

/-! ### Bits (R178) -/

/-- Count of leading zeros of a word; 64 for zero. -/
def clzW (a : Word) : Nat := if a = 0 then 64 else 63 - log2Nat a.toNat

/-- Count of the one bits of the low n bits. -/
def popN (v : Nat) : Nat → Nat
  | 0 => 0
  | n + 1 => v / 2 ^ n % 2 + popN v n

/-- CLZ (Table 7.14). -/
def execClz (g : Guard) (sd sa : BitVec 6) (s : State) : Outcome State Fault Refusal :=
  slotRun s g fun c => c.putS sd (BitVec.ofNat 64 (clzW (c.rs sa))) 1

/-- POPC (Table 7.14). -/
def execPopc (g : Guard) (sd sa : BitVec 6) (s : State) : Outcome State Fault Refusal :=
  slotRun s g fun c => c.putS sd (BitVec.ofNat 64 (popN (c.rs sa).toNat 64)) 1

/-- The bit field that b names in a (Table 7.14): LO [5:0], WID [14:8], SX [16]. -/
def bfx (a b : Word) : Word :=
  let lo := bitsOf b.toNat 0 6
  let wid := bitsOf b.toNat 8 7
  if wid = 0 || decide (64 < wid) then 0
  else if bitsOf b.toNat 16 1 = 1 then BitVec.ofInt 64 (sextInt (bitsOf a.toNat lo wid) wid)
  else BitVec.ofNat 64 (bitsOf a.toNat lo wid)

/-- d with the bit field that b names replaced by the low bits of a, cut off at bit 63 (Table 7.14). -/
def bfi (d a b : Word) : Word :=
  let lo := bitsOf b.toNat 0 6
  let wid := bitsOf b.toNat 8 7
  if wid = 0 || decide (64 < wid) then d else setBits d lo (min (lo + wid) 64 - lo) a.toNat

/-- BFX (Table 7.14). -/
def execBfx (g : Guard) (sd sa sb : BitVec 6) (s : State) : Outcome State Fault Refusal :=
  slotRun s g fun c => c.putS sd (bfx (c.rs sa) (c.rs sb)) 1

/-- BFI (Table 7.14); sd is read as a source. -/
def execBfi (g : Guard) (sd sa sb : BitVec 6) (s : State) : Outcome State Fault Refusal :=
  slotRun s g fun c => c.putS sd (bfi (c.rs sd) (c.rs sa) (c.rs sb)) 1

/-! ### Cross-file copies (R184) -/

/-- MOVSA: a(ad) := s(sa), bound 2. -/
def execMovsa (g : Guard) (ad : BitVec 5) (sa : BitVec 6) (s : State) : Outcome State Fault Refusal :=
  slotRun s g fun c => c.push (.a ad.toNat) (c.rs sa).toNat 2

/-- MOVAS: s(sd) := a(aa), bound 2. -/
def execMovas (g : Guard) (sd : BitVec 6) (aa : BitVec 5) (s : State) : Outcome State Fault Refusal :=
  slotRun s g fun c => c.putS sd (c.ra aa) 2

/-- MOVSV: every 64-bit lane of vd := s(sa), bound 2. -/
def execMovsv (g : Guard) (vf : VFile) (vd : BitVec 5) (sa : BitVec 6) (s : State) :
    Outcome State Fault Refusal :=
  slotRun s g fun c => c.push (.v vf vd.toNat) (vecOf 64 (List.replicate 32 (c.rs sa).toNat)).toNat 2

/-! ### Control and status registers (R185, R186) -/

/-- RATIO of a grant (Table 7.19). -/
def Grant.ratio (r : Grant) : Nat :=
  r.m % 32 + r.v % 32 * 2 ^ 8 + r.n % 32 * 2 ^ 16 + r.h % 32 * 2 ^ 24 + r.gseq % 2 ^ 16 * 2 ^ 32

/-- The value of a control and status register of c (Tables 2.3 and 7.18); temp is the sensor's reading. -/
def csrValue (s : State) (c : Ctx) (temp n : Nat) : Nat :=
  match n with
  | 0x00 => c.key.rank
  | 0x01 => c.info.t
  | 0x02 => c.info.shape
  | 0x03 => c.info.gid.toNat + c.info.g * 2 ^ 32
  | 0x04 => c.info.grank
  | 0x05 => bitsOf s.devcfg.toNat 0 9
  | 0x06 => c.site
  | 0x07 => c.mode.toNat
  | 0x08 => c.clock
  | 0x09 => c.replays.toNat
  | 0x0A => c.grant.ratio
  | 0x0B => temp
  | 0x0C => c.events.toNat
  | 0x0D => c.evmask.toNat
  | 0x0E => c.fault.toNat
  | 0x0F => c.srkey.toNat
  | 0x10 => 1
  | _ => 0

/-- The registers whose read DET mode traps: PSITE, CLOCK, REPLAYS, RATIO and TEMP (R50). -/
def csrTrapped (n : Nat) : Bool := n == 0x06 || (decide (0x08 ≤ n) && decide (n ≤ 0x0B))

/-- A read that DET mode traps: the value that TRET delivers in the reissued bundle (R52), else the trap (R50). -/
def Ctx.trappedRead (c : Ctx) (detail : Nat) : Ctx :=
  match c.tretVal with
  | some (v, i) => c.push (.s i) v.toNat 1
  | none => c.detTrap detail

/-- CSRR (R185). A reading of the temperature sensor is a free value (assumption 5). -/
def execCsrr (g : Guard) (sd : BitVec 6) (n : BitVec 8) (s : State) : Outcome State Fault Refusal :=
  let read : Ctx → Ctx := fun c =>
    if c.det && csrTrapped n.toNat then c.trappedRead (n.toNat + sd.toNat * 2 ^ 9)
    else c.putS sd (BitVec.ofNat 64 (csrValue s c (Config.sensorTemp c.site s.fresh).toNat n.toNat)) 1
  if n.toNat = 0x0B then slotRun { s with fresh := s.fresh + 1 } g read else slotRun s g read

/-- CSRW (R185): seen by the bundles after its own. -/
def execCsrw (g : Guard) (sa : BitVec 6) (n : BitVec 8) (s : State) : Outcome State Fault Refusal :=
  slotRun s g fun c => c.push (.csr n.toNat) (c.rs sa).toNat 1

/-- SEMRD (R187): the count of a semaphore, bound 1. -/
def execSemrd (g : Guard) (sd : BitVec 6) (sem : BitVec 8) (s : State) : Outcome State Fault Refusal :=
  slotRun s g fun c => c.onSem 1 sem.toNat fun c =>
    if c.det then c.trappedRead (sem.toNat + 2 ^ 8 + sd.toNat * 2 ^ 9)
    else if c.relPending sem.toNat then c.hold
    else c.putS sd ((c.semCount sem.toNat).zeroExtend 64) 1

end Sys2Proof.Machine
end

