-- ==== Sys2Proof/Machine/ScalarFp.lean ====
section
/-! DEFINITION. The FP32 part of the S slot (R182, R183) and FCMP (R179). -/
namespace Sys2Proof.Machine
open Host

/-- Bits [31:0] of an s register as FP32 (R173). -/
def Ctx.f32 (c : Ctx) (i : BitVec 6) : Fv := FpTy.f32.val ((c.rs i).toNat % 2 ^ 32)

/-- Writes an FP32 result, zero-extended, with its exception flags (R173, R335). -/
def Ctx.putF (c : Ctx) (sd : BitVec 6) (r : Nat × Flags) (l : Nat) : Ctx :=
  c.pushF (.s sd.toNat) (r.1 % 2 ^ 32) l r.2

/-- FADD (Table 7.16). -/
def execFadd (g : Guard) (sd sa sb : BitVec 6) (s : State) : Outcome State Fault Refusal :=
  slotRun s g fun c => c.putF sd (arith .f32 c.round [c.f32 sa, c.f32 sb] ((c.f32 sa).add (c.f32 sb))) 4

/-- FSUB (Table 7.16). -/
def execFsub (g : Guard) (sd sa sb : BitVec 6) (s : State) : Outcome State Fault Refusal :=
  slotRun s g fun c => c.putF sd (arith .f32 c.round [c.f32 sa, c.f32 sb] ((c.f32 sa).add (c.f32 sb).neg)) 4

/-- FMUL (Table 7.16). -/
def execFmul (g : Guard) (sd sa sb : BitVec 6) (s : State) : Outcome State Fault Refusal :=
  slotRun s g fun c => c.putF sd (arith .f32 c.round [c.f32 sa, c.f32 sb] ((c.f32 sa).mul (c.f32 sb))) 4

/-- FMA (Table 7.16): the product is not rounded; all registers in s0 to s31. -/
def execFma (g : Guard) (sd sa sb sc : BitVec 5) (s : State) : Outcome State Fault Refusal :=
  slotRun s g fun c =>
    let x := c.f32 (sa.zeroExtend 6)
    let y := c.f32 (sb.zeroExtend 6)
    let z := c.f32 (sc.zeroExtend 6)
    c.putF (sd.zeroExtend 6) (arith .f32 c.round [x, y, z] ((x.mul y).add z)) 4

/-- FDIV (Table 7.16). -/
def execFdiv (g : Guard) (sd sa sb : BitVec 6) (s : State) : Outcome State Fault Refusal :=
  slotRun s g fun c => c.putF sd (fdiv c.round (c.f32 sa) (c.f32 sb)) 24

/-- FSQRT (Table 7.16). -/
def execFsqrt (g : Guard) (sd sa : BitVec 6) (s : State) : Outcome State Fault Refusal :=
  slotRun s g fun c => c.putF sd (fsqrt c.round (c.f32 sa)) 24

/-- FCMP (R179): bits [31:0] as FP32, bound 4. -/
def execFcmp (g : Guard) (fd : BitVec 3) (cc : Cc) (sa sb : BitVec 6) (s : State) : Outcome State Fault Refusal :=
  slotRun s g fun c => c.push (.f fd.toNat) (fpTest cc (c.f32 sa) (c.f32 sb)).toNat 4

/-- The source of an FCVT as an exact value (R183). -/
def scvRead (t : ScvTy) (v : Word) : Fv :=
  match t with
  | .f32 => FpTy.f32.val (v.toNat % 2 ^ 32)
  | .f16 => FpTy.f16.val (v.toNat % 2 ^ 16)
  | .bf16 => FpTy.bf16.val (v.toNat % 2 ^ 16)
  | .s32 => Fv.ofInt (sextInt v.toNat 32)
  | .s64 => Fv.ofInt v.toInt
  | .z32 => Fv.ofInt (v.toNat % 2 ^ 32 : Nat)
  | .z64 => Fv.ofInt v.toNat

/-- Saturating conversion of FCVT to an integer of 64 bits (R183). -/
def toInt64 (mode : Round) (lo hi : Int) (x : Fv) : Nat × Flags :=
  let r := cvtInt mode lo hi x
  (wrap r.1 64, r.2)

/-- The result of an FCVT (R183). -/
def scvConvert (t : ScvTy) (mode : Round) (satf8 : Bool) (x : Fv) : Nat × Flags :=
  match t with
  | .f32 => cvtCode .f32 mode satf8 x
  | .f16 => cvtCode .f16 mode satf8 x
  | .bf16 => cvtCode .bf16 mode satf8 x
  | .s32 => toInt64 mode (-2 ^ 31) (2 ^ 31 - 1) x
  | .s64 => toInt64 mode (-2 ^ 63) (2 ^ 63 - 1) x
  | .z32 => toInt64 mode 0 (2 ^ 32 - 1) x
  | .z64 => toInt64 mode 0 (2 ^ 64 - 1) x

/-- The rounding that RM names; SR is admitted by VCVT only (Table 6.6). -/
def rmRound : Rm → Round
  | .rne => .rne
  | .rtz => .rtz
  | .sr => .rne

/-- FCVT (R183): rounds by its own RM, bound 4. -/
def execFcvt (g : Guard) (sd sa : BitVec 6) (tfrom tto : ScvTy) (rm : Rm) (s : State) :
    Outcome State Fault Refusal :=
  slotRun s g fun c =>
    let r := scvConvert tto (rmRound rm) c.satf8 (scvRead tfrom (c.rs sa))
    c.pushF (.s sd.toNat) r.1 4 r.2

end Sys2Proof.Machine
end

