-- ==== Sys2Proof/Machine/Vector.lean ====
section
/-! DEFINITION. The integer, byte and predicate part of the VA and VB slots (R188 to R192, R196 to R204). The slot
supplies the file: u is the unit. -/
namespace Sys2Proof.Machine
open Host

/-! ### Elements and predicates (R188 to R190) -/

/-- Width of an IT code (Table 8.1). -/
def itWidth : IntTy → Nat
  | .s8 | .z8 => 8
  | .s16 | .z16 => 16
  | .s32 | .z32 => 32
  | .s64 | .z64 => 64

/-- True for the signed IT codes. -/
def itSigned : IntTy → Bool
  | .s8 | .s16 | .s32 | .s64 => true
  | .z8 | .z16 | .z32 | .z64 => false

/-- The governing bit of element i of width w (R189). -/
def gov (p : PReg) (i w : Nat) : Bool := p.getLsbD (i * w / 8)

/-- The merge of R190: active elements of width w take f, the others keep old's. -/
def mergeEls (w : Nat) (p : PReg) (old : VReg) (f : Nat → Nat) : VReg :=
  vecOf w (tabulate (2048 / w) fun i => if gov p i w then f i else el old i w)

/-- The other vector file (R203). -/
def otherFile : VFile → VFile
  | .va => .vb
  | .vb => .va

/-- The slot index of a vector unit (Table 6.1). -/
def unitSlot : VFile → Nat
  | .va => 2
  | .vb => 3

/-- land(vd, v, l) in the unit's own file. -/
def Ctx.putV (c : Ctx) (u : VFile) (vd : BitVec 5) (v : VReg) (l : Nat) : Ctx := c.push (.v u vd.toNat) v.toNat l

/-- land(pd, v, l). -/
def Ctx.putP (c : Ctx) (pd : BitVec 5) (v : PReg) (l : Nat) : Ctx := c.push (.p pd.toNat) v.toNat l

/-! ### Untyped byte instructions (Table 8.6) -/

/-- A merging byte instruction: byte j of the result is f of the bytes j of va and vb (R199). -/
def vbytes (s : State) (u : VFile) (g : Guard) (vd va vb pg : BitVec 5) (f : Nat → Nat → Nat) :
    Outcome State Fault Refusal :=
  slotRun s g fun c =>
    c.putV u vd (mergeEls 8 (c.rp pg) (c.rv u vd) fun j => f (el (c.rv u va) j 8) (el (c.rv u vb) j 8)) 2

/-- VAND (Table 8.6). -/
def execVand (u : VFile) (g : Guard) (vd va vb pg : BitVec 5) (s : State) : Outcome State Fault Refusal :=
  vbytes s u g vd va vb pg fun a b => a &&& b

/-- VOR (Table 8.6). -/
def execVor (u : VFile) (g : Guard) (vd va vb pg : BitVec 5) (s : State) : Outcome State Fault Refusal :=
  vbytes s u g vd va vb pg fun a b => a ||| b

/-- VXOR (Table 8.6). -/
def execVxor (u : VFile) (g : Guard) (vd va vb pg : BitVec 5) (s : State) : Outcome State Fault Refusal :=
  vbytes s u g vd va vb pg fun a b => a ^^^ b

/-- VMOV (Table 8.6). -/
def execVmov (u : VFile) (g : Guard) (vd va pg : BitVec 5) (s : State) : Outcome State Fault Refusal :=
  vbytes s u g vd va va pg fun a _ => a

/-- VSEL (Table 8.6): writes every byte, va's where pg is 1 and vb's elsewhere. -/
def execVsel (u : VFile) (g : Guard) (vd va vb pg : BitVec 5) (s : State) : Outcome State Fault Refusal :=
  slotRun s g fun c => c.putV u vd (mergeEls 8 (c.rp pg) (c.rv u vb) fun j => el (c.rv u va) j 8) 2

/-- VSPLAT (R200): sext(imm) into each active 32-bit element. -/
def execVsplat (u : VFile) (g : Guard) (vd : BitVec 5) (imm : BitVec 10) (pg : BitVec 5) (s : State) :
    Outcome State Fault Refusal :=
  slotRun s g fun c =>
    c.putV u vd (mergeEls 32 (c.rp pg) (c.rv u vd) fun _ => wrap (immS (c.lentTo (unitSlot u)) 10 imm) 32) 2

/-- VXF (R203): bytes of the other file's register vs under pg. -/
def execVxf (u : VFile) (g : Guard) (vd vs pg : BitVec 5) (s : State) : Outcome State Fault Refusal :=
  slotRun s g fun c =>
    c.putV u vd (mergeEls 8 (c.rp pg) (c.rv u vd) fun j => el (c.rv (otherFile u) vs) j 8) 2

/-! ### Integer arithmetic (Table 8.3) -/

/-- A typed integer instruction: op on the unsigned readings of each active element (R192). -/
def vint (s : State) (u : VFile) (g : Guard) (t : IntTy) (vd va vb pg : BitVec 5) (op : Nat → Nat → Nat) :
    Outcome State Fault Refusal :=
  let w := itWidth t
  slotRun s g fun c =>
    c.putV u vd (mergeEls w (c.rp pg) (c.rv u vd) fun i => op (el (c.rv u va) i w) (el (c.rv u vb) i w)) 2

/-- A code read by the type's signedness. -/
def itVal (t : IntTy) (a : Nat) : Int := if itSigned t then sextInt a (itWidth t) else a

/-- VADD (Table 8.3). -/
def execVadd (u : VFile) (g : Guard) (t : IntTy) (vd va vb pg : BitVec 5) (s : State) : Outcome State Fault Refusal :=
  vint s u g t vd va vb pg fun a b => a + b

/-- VSUB (Table 8.3). -/
def execVsub (u : VFile) (g : Guard) (t : IntTy) (vd va vb pg : BitVec 5) (s : State) : Outcome State Fault Refusal :=
  vint s u g t vd va vb pg fun a b => wrap ((a : Int) - b) (itWidth t)

/-- VMUL (Table 8.3). -/
def execVmul (u : VFile) (g : Guard) (t : IntTy) (vd va vb pg : BitVec 5) (s : State) : Outcome State Fault Refusal :=
  vint s u g t vd va vb pg fun a b => a * b

/-- VMULH (Table 8.3). -/
def execVmulh (u : VFile) (g : Guard) (t : IntTy) (vd va vb pg : BitVec 5) (s : State) : Outcome State Fault Refusal :=
  vint s u g t vd va vb pg fun a b => wrap (itVal t a * itVal t b / 2 ^ itWidth t) (itWidth t)

/-- VMIN (Table 8.3). -/
def execVmin (u : VFile) (g : Guard) (t : IntTy) (vd va vb pg : BitVec 5) (s : State) : Outcome State Fault Refusal :=
  vint s u g t vd va vb pg fun a b => if itVal t a ≤ itVal t b then a else b

/-- VMAX (Table 8.3). -/
def execVmax (u : VFile) (g : Guard) (t : IntTy) (vd va vb pg : BitVec 5) (s : State) : Outcome State Fault Refusal :=
  vint s u g t vd va vb pg fun a b => if itVal t a ≤ itVal t b then b else a

/-- VSHL (Table 8.3). -/
def execVshl (u : VFile) (g : Guard) (t : IntTy) (vd va vb pg : BitVec 5) (s : State) : Outcome State Fault Refusal :=
  vint s u g t vd va vb pg fun a b => a * 2 ^ (b % itWidth t)

/-- VSHR (Table 8.3). -/
def execVshr (u : VFile) (g : Guard) (t : IntTy) (vd va vb pg : BitVec 5) (s : State) : Outcome State Fault Refusal :=
  vint s u g t vd va vb pg fun a b => a / 2 ^ (b % itWidth t)

/-- VSRA (Table 8.3). -/
def execVsra (u : VFile) (g : Guard) (t : IntTy) (vd va vb pg : BitVec 5) (s : State) : Outcome State Fault Refusal :=
  vint s u g t vd va vb pg fun a b => wrap (sextInt a (itWidth t) / 2 ^ (b % itWidth t)) (itWidth t)

/-- VABS (Table 8.3); the least value gives itself. -/
def execVabs (u : VFile) (g : Guard) (t : IntTy) (vd va pg : BitVec 5) (s : State) : Outcome State Fault Refusal :=
  vint s u g t vd va va pg fun a _ => wrap (sextInt a (itWidth t)).natAbs (itWidth t)

/-- VCMP (R196): every bit of pd that an element spans takes its outcome; no predicate and no merge. -/
def execVcmp (u : VFile) (g : Guard) (t : IntTy) (pd va vb : BitVec 5) (cc : Cc) (s : State) :
    Outcome State Fault Refusal :=
  let w := itWidth t
  slotRun s g fun c =>
    c.putP pd (BitVec.ofNat 256 (ofEls (w / 8) (tabulate (2048 / w) fun i =>
      if intTest cc (itSigned t) w (el (c.rv u va) i w) (el (c.rv u vb) i w) then 2 ^ (w / 8) - 1 else 0))) 2

/-- VIOTA (R200): active element i takes (sext(imm) + i) mod 2^w. -/
def execViota (u : VFile) (g : Guard) (t : IntTy) (vd : BitVec 5) (imm : BitVec 10) (pg : BitVec 5) (s : State) :
    Outcome State Fault Refusal :=
  let w := itWidth t
  slotRun s g fun c =>
    c.putV u vd (mergeEls w (c.rp pg) (c.rv u vd) fun i => wrap (immS (c.lentTo (unitSlot u)) 10 imm + i) w) 2

/-- VTRN (R202): even elements of va and vb interleaved. -/
def execVtrn (u : VFile) (g : Guard) (t : IntTy) (vd va vb pg : BitVec 5) (s : State) : Outcome State Fault Refusal :=
  let w := itWidth t
  slotRun s g fun c =>
    c.putV u vd (mergeEls w (c.rp pg) (c.rv u vd) fun i =>
      if i % 2 = 0 then el (c.rv u va) i w else el (c.rv u vb) (i - 1) w) 2

/-- VPERM (R201): active element i takes va's element named by vb's element i, modulo the element count. -/
def execVperm (u : VFile) (g : Guard) (t : IntTy) (vd va vb pg : BitVec 5) (s : State) : Outcome State Fault Refusal :=
  let w := itWidth t
  slotRun s g fun c =>
    c.putV u vd (mergeEls w (c.rp pg) (c.rv u vd) fun i => el (c.rv u va) (el (c.rv u vb) i w % (2048 / w)) w) 2

/-- VMOVS (R204): element LANE into s(sd), extended by the type, bound 2. -/
def execVmovs (u : VFile) (g : Guard) (t : IntTy) (sd : BitVec 6) (va : BitVec 5) (lane : BitVec 8) (s : State) :
    Outcome State Fault Refusal :=
  slotRun s g fun c => c.putS sd (BitVec.ofInt 64 (itVal t (el (c.rv u va) lane.toNat (itWidth t)))) 2

/-! ### Predicates and flags (R197, R198) -/

/-- PLOGIC (R197): bit j of pd is TT[2 pa[j] + pb[j]]. -/
def execPlogic (_u : VFile) (g : Guard) (pd pa pb : BitVec 5) (tt : BitVec 4) (s : State) :
    Outcome State Fault Refusal :=
  slotRun s g fun c =>
    c.putP pd (BitVec.ofNat 256 (ofEls 1 (tabulate 256 fun j =>
      (truth tt ((c.rp pa).getLsbD j) ((c.rp pb).getLsbD j)).toNat))) 2

/-- PSET (R197): bits 0 to N - 1 of pd set, the others clear. -/
def execPset (_u : VFile) (g : Guard) (pd : BitVec 5) (n : BitVec 9) (s : State) : Outcome State Fault Refusal :=
  slotRun s g fun c => c.putP pd (BitVec.ofNat 256 (2 ^ n.toNat - 1)) 2

/-- VANY (R198): any bit of pa is 1. -/
def execVany (_u : VFile) (g : Guard) (fd : BitVec 3) (pa : BitVec 5) (s : State) : Outcome State Fault Refusal :=
  slotRun s g fun c => c.push (.f fd.toNat) (c.rp pa != 0).toNat 2

/-- VALL (R198): every bit of pa is 1. -/
def execVall (_u : VFile) (g : Guard) (fd : BitVec 3) (pa : BitVec 5) (s : State) : Outcome State Fault Refusal :=
  slotRun s g fun c => c.push (.f fd.toNat) (c.rp pa == BitVec.allOnes 256).toNat 2

end Sys2Proof.Machine
end

