-- ==== Sys2Proof/Machine/VectorFp.lean ====
section
/-! DEFINITION. The floating-point part of the VA and VB slots (R193 to R196, R205 to R210). Exception flags of active
elements are ORed (R335). -/
namespace Sys2Proof.Machine
open Host

/-- The merge of R190 for elements that raise flags. -/
def mergeFp (w : Nat) (p : PReg) (old : VReg) (f : Nat → Nat × Flags) : VReg × Flags :=
  let rs := tabulate (2048 / w) fun i => if gov p i w then f i else (el old i w, 0)
  (vecOf w (rs.map Prod.fst), rs.foldl (fun a r => a ||| r.2) 0)

/-- land(vd, v, l) with exception flags. -/
def Ctx.putVF (c : Ctx) (u : VFile) (vd : BitVec 5) (r : VReg × Flags) (l : Nat) : Ctx :=
  c.pushF (.v u vd.toNat) r.1.toNat l r.2

/-- A floating instruction of Table 8.4 or R194: f gives an element from those of va, vb and vd. -/
def vfp (s : State) (u : VFile) (g : Guard) (t : FpTy) (vd va vb pg : BitVec 5)
    (f : Round → Nat → Nat → Nat → Nat × Flags) : Outcome State Fault Refusal :=
  let w := t.width
  slotRun s g fun c =>
    c.putVF u vd (mergeFp w (c.rp pg) (c.rv u vd) fun i =>
      f c.round (el (c.rv u va) i w) (el (c.rv u vb) i w) (el (c.rv u vd) i w)) 4

/-- VFADD (Table 8.4): a + b. -/
def execVfadd (u : VFile) (g : Guard) (t : FpTy) (vd va vb pg : BitVec 5) (s : State) : Outcome State Fault Refusal :=
  vfp s u g t vd va vb pg fun m a b _ => arith t m [t.val a, t.val b] ((t.val a).add (t.val b))

/-- VFSUB (Table 8.4): a - b. -/
def execVfsub (u : VFile) (g : Guard) (t : FpTy) (vd va vb pg : BitVec 5) (s : State) : Outcome State Fault Refusal :=
  vfp s u g t vd va vb pg fun m a b _ => arith t m [t.val a, t.val b] ((t.val a).add (t.val b).neg)

/-- VFMUL (Table 8.4): a * b. -/
def execVfmul (u : VFile) (g : Guard) (t : FpTy) (vd va vb pg : BitVec 5) (s : State) : Outcome State Fault Refusal :=
  vfp s u g t vd va vb pg fun m a b _ => arith t m [t.val a, t.val b] ((t.val a).mul (t.val b))

/-- VFMA (Table 8.4): a * b + d, one rounding. -/
def execVfma (u : VFile) (g : Guard) (t : FpTy) (vd va vb pg : BitVec 5) (s : State) : Outcome State Fault Refusal :=
  vfp s u g t vd va vb pg fun m a b d => arith t m [t.val a, t.val b, t.val d] (((t.val a).mul (t.val b)).add (t.val d))

/-- VFNMA (Table 8.4): d - a * b, one rounding. -/
def execVfnma (u : VFile) (g : Guard) (t : FpTy) (vd va vb pg : BitVec 5) (s : State) : Outcome State Fault Refusal :=
  vfp s u g t vd va vb pg fun m a b d => arith t m [t.val a, t.val b, t.val d] (((t.val a).mul (t.val b)).neg.add (t.val d))

/-- a ordered below b, with -0 below +0, for values that are not NaN (R194). -/
def fpBelow (a b : Fv) : Bool :=
  let d := a.cmp b
  decide (d < 0) || (d == 0 && a.isZero && a == .fin true 0 (match a with | .fin _ _ e => e | _ => 0))

/-- The lesser (or greater) of two codes; NaN gives the canonical NaN (R194). -/
def fpPick (t : FpTy) (greater : Bool) (a b : Nat) : Nat × Flags :=
  let x := t.val a
  let y := t.val b
  if x.isNan || y.isNan then (t.nanCode, 0)
  else if fpBelow x y then (if greater then b else a, 0)
  else (if greater then a else b, 0)

/-- VFMIN (R194). -/
def execVfmin (u : VFile) (g : Guard) (t : FpTy) (vd va vb pg : BitVec 5) (s : State) : Outcome State Fault Refusal :=
  vfp s u g t vd va vb pg fun _ a b _ => fpPick t false a b

/-- VFMAX (R194). -/
def execVfmax (u : VFile) (g : Guard) (t : FpTy) (vd va vb pg : BitVec 5) (s : State) : Outcome State Fault Refusal :=
  vfp s u g t vd va vb pg fun _ a b _ => fpPick t true a b

/-- VFSGN (R194): the magnitude of a with the sign of b, + when b is NaN; NaN when a is. -/
def execVfsgn (u : VFile) (g : Guard) (t : FpTy) (vd va vb pg : BitVec 5) (s : State) : Outcome State Fault Refusal :=
  vfp s u g t vd va vb pg fun _ a b _ =>
    if (t.val a).isNan then (t.nanCode, 0)
    else
      let sg := if (t.val b).isNan then 0 else b / 2 ^ (t.width - 1) % 2
      (a % 2 ^ (t.width - 1) + sg * 2 ^ (t.width - 1), 0)

/-- VFCMP (R196). -/
def execVfcmp (u : VFile) (g : Guard) (t : FpTy) (pd va vb : BitVec 5) (cc : Cc) (s : State) :
    Outcome State Fault Refusal :=
  let w := t.width
  slotRun s g fun c =>
    c.putP pd (BitVec.ofNat 256 (ofEls (w / 8) (tabulate (2048 / w) fun i =>
      if fpTest cc (t.val (el (c.rv u va) i w)) (t.val (el (c.rv u vb) i w)) then 2 ^ (w / 8) - 1 else 0))) 4

/-- VSFU (R195): the exact function value rounded by RNE, bound 8. -/
def execVsfu (u : VFile) (g : Guard) (fn : Sfu) (vd va pg : BitVec 5) (s : State) : Outcome State Fault Refusal :=
  slotRun s g fun c =>
    c.putVF u vd (mergeFp 32 (c.rp pg) (c.rv u vd) fun i => sfu fn (FpTy.f32.val (el (c.rv u va) i 32))) 8

/-- VRED (R209): the canonical tree over the active elements into element 0, +0 elsewhere, bound 6. -/
def execVred (u : VFile) (g : Guard) (vd va pg : BitVec 5) (s : State) : Outcome State Fault Refusal :=
  slotRun s g fun c =>
    let leaf := fun i => if gov (c.rp pg) i 32 then some (canon32 (el (c.rv u va) i 32)) else none
    let sum := (treeOf add32 leaf 6 0).getD 0
    c.putVF u vd (BitVec.ofNat 2048 sum, treeFlags leaf 6 0) 6

/-- VCOMB (R210): lane by lane, va on the left; writes vd and pg, bound 4. -/
def execVcomb (u : VFile) (g : Guard) (vd va vb pg : BitVec 5) (s : State) : Outcome State Fault Refusal :=
  slotRun s g fun c =>
    let lo := fun i => gov (c.rp pg) i 32
    let up := fun i => gov (c.rp (pg + 1)) i 32
    let r := tabulate 64 fun i =>
      let a := el (c.rv u va) i 32
      let b := el (c.rv u vb) i 32
      if lo i && up i then add32f a b
      else if lo i then (canon32 a, 0)
      else if up i then (canon32 b, 0)
      else (0, 0)
    let c1 := c.putVF u vd (vecOf 32 (r.map Prod.fst), r.foldl (fun a x => a ||| x.2) 0) 4
    c1.putP pg (BitVec.ofNat 256 (ofEls 4 (tabulate 64 fun i => if lo i || up i then 15 else 0))) 4

/-! ### Conversions (R205, R206) -/

/-- Width of a CV code. -/
def cvWidth : CvTy → Nat
  | .fp t => t.width
  | .s32 => 32
  | .s8 => 8

/-- val(FS, b): integers are read exactly, signed (R205). -/
def cvVal (t : CvTy) (b : Nat) : Fv :=
  match t with
  | .fp f => f.val b
  | .s32 => Fv.ofInt (sextInt b 32)
  | .s8 => Fv.ofInt (sextInt b 8)

/-- The conversion of one element (R205). -/
def cvConvert (t : CvTy) (m : Round) (satf8 : Bool) (x : Fv) : Nat × Flags :=
  match t with
  | .fp f => cvtCode f m satf8 x
  | .s32 => let r := cvtInt m (-2 ^ 31) (2 ^ 31 - 1) x; (wrap r.1 32, r.2)
  | .s8 => let r := cvtInt m (-2 ^ 7) (2 ^ 7 - 1) x; (wrap r.1 8, r.2)

/-- The rounding of element i under SR: keyed by SRKEY with the index register's base and step, or a free value of the
free-running source (R116, R206). -/
def Ctx.srRound (c : Ctx) (free : Nat) (vi : VReg) (i : Nat) : Round :=
  if c.srFree then .sr (el (Config.freeBits (free + i / 64)) (i % 64) 32)
  else .sr (srBits c.srkey ((bitsOf vi.toNat 0 64 + i) % 2 ^ 64) (bitsOf vi.toNat 64 32))

/-- The result of a VCVT (R205): elements of the wider width; bits at and above E * wd keep vd's value. -/
def vcvtEls (d t : CvTy) (p : PReg) (old src : VReg) (satf8 : Bool) (m : Nat → Round) : VReg × Flags :=
  let wd := cvWidth d
  let w := max wd (cvWidth t)
  let n := 2048 / w
  let rs := tabulate n fun i =>
    if gov p i w then cvConvert d (m i) satf8 (cvVal t (el src i (cvWidth t))) else (el old i wd, 0)
  let low := ofEls wd (rs.map Prod.fst)
  (BitVec.ofNat 2048 (low + old.toNat / 2 ^ (n * wd) * 2 ^ (n * wd)), rs.foldl (fun a r => a ||| r.2) 0)

/-- VCVT (R205, R206). With SR the lent bits [19:15] name the index register; a VCVT with SR and no XIM makes its
bundle illegal (R135). -/
def execVcvt (u : VFile) (g : Guard) (d t : CvTy) (rm : Rm) (vd va pg : BitVec 5) (s : State) :
    Outcome State Fault Refusal :=
  match rm with
  | .sr =>
    slotRun { s with fresh := s.fresh + 4 } g fun c =>
      match c.lentTo (unitSlot u) with
      | some h =>
        let vi := c.rv u (h.extractLsb' 15 5)
        c.putVF u vd (vcvtEls d t (c.rp pg) (c.rv u vd) (c.rv u va) c.satf8 (c.srRound s.fresh vi)) 4
      | none => c.raise Code.illBundle (unitSlot u) 4
  | rm =>
    slotRun s g fun c =>
      c.putVF u vd (vcvtEls d t (c.rp pg) (c.rv u vd) (c.rv u va) c.satf8 fun _ => rmRound rm) 4

/-! ### Quantisation (R207, R208) -/

/-- emax(D) of R207. -/
def fpEmax : FpTy → Int
  | .e4m3 => 8
  | .e5m2 => 15
  | _ => 2

/-- Exponent of the leading bit of a non-zero finite value. -/
def fvTop : Fv → Int
  | .fin _ m e => e + log2Nat m
  | _ => 0

/-- The scale of a block and its exponent X (R207). -/
def blockScale (t : FpTy) (xs : List Fv) : Nat × Int :=
  if xs.any fun x => !(x.isFinNz || x.isZero) then (0xFF, 0)
  else
    match (xs.filter Fv.isFinNz).map fvTop with
    | [] => (127, 0)
    | y :: ys =>
      let x := max (ys.foldl max y - fpEmax t) (-127)
      ((x + 127).toNat, x)

/-- VQNT (R207): four blocks of 16 elements with E8M0 scales in bytes 64 to 67; writes every byte. -/
def execVqnt (u : VFile) (g : Guard) (t : FpTy) (vd va pg : BitVec 5) (s : State) : Outcome State Fault Refusal :=
  slotRun s g fun c =>
    let act := fun i => gov (c.rp pg) i 32
    let x := fun i => FpTy.f32.val (el (c.rv u va) i 32)
    let sc := fun blk => blockScale t (((tabulate 16 fun j => 16 * blk + j).filter act).map x)
    let rs := tabulate 64 fun i =>
      if act i then cvtCode t .rne false ((x i).mul (.fin false 1 (-(sc (i / 16)).2))) else (0, 0)
    let els := ofEls t.width (rs.map Prod.fst)
    let scales := ofEls 8 (tabulate 4 fun blk => (sc blk).1)
    c.putVF u vd (BitVec.ofNat 2048 (els + scales * 2 ^ 512), rs.foldl (fun a r => a ||| r.2) 0) 4

/-- VDQNT (R208). -/
def execVdqnt (u : VFile) (g : Guard) (t : FpTy) (vd va pg : BitVec 5) (s : State) : Outcome State Fault Refusal :=
  slotRun s g fun c =>
    c.putVF u vd (mergeFp 32 (c.rp pg) (c.rv u vd) fun i =>
      let sc := el (c.rv u va) (64 + i / 16) 8
      let e := t.val (el (c.rv u va) i t.width)
      if sc = 0xFF || e.isNan then (FpTy.f32.nanCode, 0)
      else cvtCode .f32 .rne false (e.mul (.fin false 1 ((sc : Int) - 127)))) 4

end Sys2Proof.Machine
end

