-- ==== Sys2Proof/Machine/LocalMem.lean ====
section
/-! DEFINITION. The L slot (R237 to R241): loads, stores, address arithmetic and LATOM on the context's own LM. -/
namespace Sys2Proof.Machine
open Host

/-- The value that a load makes of the bytes that it read (R238). -/
def LoadExt.value : LoadExt → List Byte → Nat
  | .plain, bs => leNat bs
  | .spread, bs => leNat (List.replicate 8 bs).flatten
  | .int t, bs => (BitVec.ofInt 64 (itVal t (leNat bs))).toNat

/-- What a load of n bytes at each offset reads, in units of at most 8 bytes (R84). -/
def Ctx.loadSrc (c : Ctx) (offs : List Nat) (n : Nat) (ext : LoadExt) : LoadSrc :=
  ⟨offs, n, offs.flatMap fun o => c.lm.read o n, ext, List.replicate (offs.length * (n / min 8 n)) false, c.issued + 6⟩

/-- What the result of a LATOM stands for: its read is the atomic's own event, and no later write changes it. -/
def LoadSrc.atom : LoadSrc := ⟨[], 1, [], .plain, [], 0⟩

/-- The value of a load. -/
def LoadSrc.value (x : LoadSrc) : Nat := x.ext.value x.bytes

/-- land(d, v, 6) of a load (Table 6.4), with what it read (R91). -/
def Ctx.load (c : Ctx) (d : Dest) (x : LoadSrc) : Ctx := (c.push d x.value 6).loadedFrom x

/-! ### Atomics (Table 10.2, R241) -/

/-- Bytes of an atomic's operand. -/
def atomBytes : AtomTy → Nat
  | .s32 | .z32 => 4
  | .s64 | .z64 => 8

/-- True for the signed TA codes. -/
def atomSigned : AtomTy → Bool
  | .s32 | .s64 => true
  | .z32 | .z64 => false

/-- An operand read by the signedness of its type. -/
def atomVal (t : AtomTy) (v : Nat) : Int := if atomSigned t then sextInt v (8 * atomBytes t) else (v : Int)

/-- Table 10.2: the new value at the location, none when a cas fails and nothing is written. expd is the value that
a cas expects. -/
def atomNew (t : AtomTy) (op : AtomOp) (old v expd : Nat) : Option Nat :=
  let m := 2 ^ (8 * atomBytes t)
  let x := v % m
  match op with
  | .add => some ((old + x) % m)
  | .min => some (if atomVal t old ≤ atomVal t x then old else x)
  | .max => some (if atomVal t old ≤ atomVal t x then x else old)
  | .and => some (old &&& x)
  | .or => some (old ||| x)
  | .xor => some (old ^^^ x)
  | .xchg => some x
  | .cas => if old = expd % m then some x else none

/-- The old value of an atomic as it lands in an s register (R241). -/
def atomResult (t : AtomTy) (old : Nat) : Word := BitVec.ofInt 64 (atomVal t old)

/-! ### Stores (R89, R90, R343) -/

/-- Bytes into LM, clearing the poison that they cover whole (R343). -/
def Ctx.lmSet (c : Ctx) (off : Nat) (bs : List Byte) : Ctx :=
  { c with lm := c.lm.write off bs, poisonLm := poisonWrite c.poisonLm 8 off (bs.map fun _ => false) }

/-- A remote LM address names this context's own LM (R66). -/
def Ctx.namesOwn (c : Ctx) (addr : Word) : Bool :=
  let a := addr.toNat
  c.issue.dev == some (rlDev a) && rlGrank a == (if c.info.gid = 0 then 0 else c.info.grank) && rlTrank a == c.key.rank

/-- An RATOM of bundle n on n bytes of own LM that [off, off + k) meets, which no engine has taken up and which waits for
no release. One with .rel comes behind the store: R97 and R98 put every other access of its bundle before it, and R90 says
that it does not observe that store; the model follows R98 (DEDUCED, assumption 95). -/
def Ctx.ownRatom (c : Ctx) (n off k : Nat) (o : Op) : Bool :=
  o.kind == .ratom && o.bundle == n && !o.isRelease && !o.sent && c.namesOwn o.dst &&
    decide (rlOff o.dst.toNat + atomBytes o.ty ≤ c.lmSize) && meets off k (rlOff o.dst.toNat) (atomBytes o.ty)

/-- Replaces the operation in an entry. -/
def Ctx.putOp (c : Ctx) (o : Op) : Ctx := { c with ops := c.ops.map fun y => if y.e = o.e then o else y }

/-- An RATOM on own LM is performed, with the write of its old value; a poisoned location keeps its value, and the
operation faults (R258, R345). -/
def Ctx.ratomNow (c : Ctx) (o : Op) : Ctx :=
  let off := rlOff o.dst.toNat
  let n := atomBytes o.ty
  if poisonHit c.poisonLm 8 off n then
    c.putOp { o with sent := true, fault := some ⟨Code.poison, 4, 7, poisonDetail 0 (off / 8)⟩ }
  else
    let old := c.lm.num off n
    let c1 := match atomNew o.ty o.aop old o.val.toNat o.expd.toNat with
      | some x => c.lmSet off (leBytes n x)
      | none => c
    let c2 := if ctlRet o.ctl then c1.lmSet (bitsOf o.ctl.toNat 0 21) (leBytes n old) else c1
    c2.putOp { o with sent := true, next := 1 }

/-- The RATOMs of bundle n on bytes of own LM that an L-slot access of that bundle writes come before it: they do not
observe it, and they are one event each (R90, R102; DEDUCED, assumption 95). -/
def Ctx.ratomsFirst (c : Ctx) (n off k : Nat) : Ctx := (c.ops.filter (c.ownRatom n off k)).foldl Ctx.ratomNow c

/-- The copies of bundle n keep the 8-byte words that [off, off + k) touches: they read each whole (R84), and do not observe
the store that follows (R90). -/
def Ctx.keepFor (c : Ctx) (n off k : Nat) : Ctx :=
  let lo := off / 8 * 8
  let len := (off + k + 7) / 8 * 8 - lo
  let old := (List.zip (c.lm.read lo len) (poisonRead c.poisonLm 8 lo len)).zipIdx.map fun p => (lo + p.2, p.1)
  { c with ops := c.ops.map fun o => if o.bundle = n && !o.isAtom then { o with snap := o.snap ++ old } else o }

/-- An L-slot store of bundle n to LM. The loads before it have been performed (R89). -/
def Ctx.lmStore (c : Ctx) (n off : Nat) (bs : List Byte) : Ctx :=
  ((c.settleLoads.ratomsFirst n off bs.length).keepFor n off bs.length).lmSet off bs

/-- An L-slot store of the bundle that issues. -/
def Ctx.lmWrite (c : Ctx) (off : Nat) (bs : List Byte) : Ctx := c.lmStore c.issued off bs

/-- A LATOM of bundle b on LM at off, as one event at the LM port: the old value and the context after it. -/
def Ctx.lmAtomic (c : Ctx) (b : Nat) (t : AtomTy) (op : AtomOp) (off v expd : Nat) : Nat × Ctx :=
  let n := atomBytes t
  let c1 := c.settleLoads.ratomsFirst b off n
  let old := c1.lm.num off n
  match atomNew t op old v expd with
  | some x => (old, c1.lmStore b off (leBytes n x))
  | none => (old, c1)

/-! ### Loads and stores (R238, R239) -/

/-- The LM offset of a format with a displacement in units (R237, Table 6.11). -/
def Ctx.dispOff {n : Nat} (c : Ctx) (aa : BitVec 5) (disp : BitVec n) (unit : Nat) : Nat :=
  c.lmOff aa (immS (c.lentTo 5) n disp * unit)

/-- VLD (R238). DESIGN CHOICE (assumption 89): an access of the L slot wider than its unit reads or writes all its bytes in one
step, where R84 would let them be of different writes. -/
def execVld (g : Guard) (f : VFile) (v aa : BitVec 5) (disp : BitVec 9) (s : State) : Outcome State Fault Refusal :=
  slotRun s g fun c =>
    let off := c.dispOff aa disp 32
    c.access (c.lmFault [off] 256 32 true) fun c => c.load (.v f v.toNat) (c.loadSrc [off] 256 .plain)

/-- VST (R238). -/
def execVst (g : Guard) (f : VFile) (v aa : BitVec 5) (disp : BitVec 9) (s : State) : Outcome State Fault Refusal :=
  slotRun s g fun c =>
    let off := c.dispOff aa disp 32
    c.access (c.lmFault [off] 256 32 false) fun c => c.lmWrite off (leBytes 256 (c.rv f v).toNat)

/-- The offsets of the 8 pieces of a strided access (R238); the stride is read as signed. -/
def Ctx.pieces (c : Ctx) (aa ax : BitVec 5) : List Nat := tabulate 8 fun j => c.lmOff aa (j * (c.ra ax).toInt)

/-- VLDS (R238). -/
def execVlds (g : Guard) (f : VFile) (v aa ax : BitVec 5) (s : State) : Outcome State Fault Refusal :=
  slotRun s g fun c =>
    let offs := c.pieces aa ax
    c.access (c.lmFault offs 32 32 true) fun c => c.load (.v f v.toNat) (c.loadSrc offs 32 .plain)

/-- Writes pieces of n bytes in ascending order, so that the later piece holds an overlap (R238, R239). -/
def Ctx.lmWrites (c : Ctx) : List (Nat × List Byte) → Ctx
  | [] => c
  | (o, bs) :: rest => (c.lmWrite o bs).lmWrites rest

/-- VSTS (R238). -/
def execVsts (g : Guard) (f : VFile) (v aa ax : BitVec 5) (s : State) : Outcome State Fault Refusal :=
  slotRun s g fun c =>
    let offs := c.pieces aa ax
    c.access (c.lmFault offs 32 32 false) fun c =>
      let bs := leBytes 256 (c.rv f v).toNat
      c.lmWrites (offs.zipIdx.map fun p => (p.1, (bs.drop (32 * p.2)).take 32))

/-- VLDB (R238): 32 bytes, replicated 8 times. -/
def execVldb (g : Guard) (f : VFile) (v aa : BitVec 5) (disp : BitVec 9) (s : State) : Outcome State Fault Refusal :=
  slotRun s g fun c =>
    let off := c.dispOff aa disp 32
    c.access (c.lmFault [off] 32 32 true) fun c =>
      c.load (.v f v.toNat) (c.loadSrc [off] 32 .spread)

/-- PLD (R238). -/
def execPld (g : Guard) (pd aa : BitVec 5) (disp : BitVec 10) (s : State) : Outcome State Fault Refusal :=
  slotRun s g fun c =>
    let off := c.dispOff aa disp 32
    c.access (c.lmFault [off] 32 32 true) fun c => c.load (.p pd.toNat) (c.loadSrc [off] 32 .plain)

/-- PST (R238). -/
def execPst (g : Guard) (pd aa : BitVec 5) (disp : BitVec 10) (s : State) : Outcome State Fault Refusal :=
  slotRun s g fun c =>
    let off := c.dispOff aa disp 32
    c.access (c.lmFault [off] 32 32 false) fun c => c.lmWrite off (leBytes 32 (c.rp pd).toNat)

/-- AADD (R240). -/
def execAadd (g : Guard) (ad aa ab : BitVec 5) (s : State) : Outcome State Fault Refusal :=
  slotRun s g fun c => c.push (.a ad.toNat) (c.ra aa + c.ra ab).toNat 1

/-- AADDI (R240): 10 bits, or 30 widened. -/
def execAaddi (g : Guard) (ad aa : BitVec 5) (imm : BitVec 10) (s : State) : Outcome State Fault Refusal :=
  slotRun s g fun c => c.push (.a ad.toNat) (c.lmOff aa (immS (c.lentTo 5) 10 imm)) 1

/-- ASET (R240): 15 bits, or 35 widened. -/
def execAset (g : Guard) (ad : BitVec 5) (imm : BitVec 15) (s : State) : Outcome State Fault Refusal :=
  slotRun s g fun c => c.push (.a ad.toNat) (wrap (immS (c.lentTo 5) 15 imm) 64) 1

/-- ALD (R238). -/
def execAld (g : Guard) (ad aa : BitVec 5) (disp : BitVec 10) (s : State) : Outcome State Fault Refusal :=
  slotRun s g fun c =>
    let off := c.dispOff aa disp 8
    c.access (c.lmFault [off] 8 8 true) fun c => c.load (.a ad.toNat) (c.loadSrc [off] 8 .plain)

/-- AST (R238). -/
def execAst (g : Guard) (ad aa : BitVec 5) (disp : BitVec 10) (s : State) : Outcome State Fault Refusal :=
  slotRun s g fun c =>
    let off := c.dispOff aa disp 8
    c.access (c.lmFault [off] 8 8 false) fun c => c.lmWrite off (leBytes 8 (c.ra ad).toNat)

/-- The offsets of the 64 elements of a gather or scatter: a(aa) plus the .z32 elements of vx (R239). -/
def Ctx.gather (c : Ctx) (f : VFile) (aa vx : BitVec 5) : List Nat :=
  tabulate 64 fun i => c.lmOff aa (el (c.rv f vx) i 32)

/-- VGTH (R239): elements at and above 64 are 0. -/
def execVgth (g : Guard) (t : IntTy) (f : VFile) (v aa vx : BitVec 5) (s : State) : Outcome State Fault Refusal :=
  slotRun s g fun c =>
    let n := itWidth t / 8
    let offs := c.gather f aa vx
    c.access (c.lmFault offs n n true) fun c => c.load (.v f v.toNat) (c.loadSrc offs n .plain)

/-- VSCT (R239): ascending elements. -/
def execVsct (g : Guard) (t : IntTy) (f : VFile) (v aa vx : BitVec 5) (s : State) : Outcome State Fault Refusal :=
  slotRun s g fun c =>
    let n := itWidth t / 8
    let offs := c.gather f aa vx
    c.access (c.lmFault offs n n false) fun c =>
      c.lmWrites (offs.zipIdx.map fun p => (p.1, leBytes n (el (c.rv f v) p.2 (8 * n))))

/-- SLD (R238): extended by the type. -/
def execSld (g : Guard) (t : IntTy) (sd : BitVec 6) (aa : BitVec 5) (disp : BitVec 9) (s : State) :
    Outcome State Fault Refusal :=
  slotRun s g fun c =>
    let n := itWidth t / 8
    let off := c.dispOff aa disp 1
    c.access (c.lmFault [off] n n true) fun c => c.load (.s sd.toNat) (c.loadSrc [off] n (.int t))

/-- SST (R238). -/
def execSst (g : Guard) (t : IntTy) (sd : BitVec 6) (aa : BitVec 5) (disp : BitVec 9) (s : State) :
    Outcome State Fault Refusal :=
  slotRun s g fun c =>
    let n := itWidth t / 8
    let off := c.dispOff aa disp 1
    c.access (c.lmFault [off] n n false) fun c => c.lmWrite off (leBytes n (c.rs sd).toNat)

/-! ### LATOM (R241) -/

/-- A LATOM that bundles before n wrote and that is still held will write a byte of [off, off + k) (R90, R241). -/
def Ctx.latomMeets (c : Ctx) (n off k : Nat) : Bool :=
  c.latom.any fun h => decide (h.bundle < n) && meets off k h.off (atomBytes h.ty)

/-- LATOM (R241): for cas, s(sd) is expected and s(sb) new. A release waits at the port (LATOM_PERFORM). -/
def execLatom (g : Guard) (t : AtomTy) (op : AtomOp) (sd : BitVec 6) (aa : BitVec 5) (sb : BitVec 6) (ord : Ord)
    (s : State) : Outcome State Fault Refusal :=
  slotRun s g fun c =>
    let off := c.lmOff aa 0
    c.access (c.lmFault [off] (atomBytes t) (atomBytes t) true) fun c =>
      match ord with
      | .rel sc =>
        { (c.pushHeld (.s sd.toNat) 0 6 0 true).loadedFrom LoadSrc.atom with
          latom := some ⟨t, op, off, c.rs sb, c.rs sd, sd.toNat, c.issued, sc⟩ }
      | _ =>
        let r := c.lmAtomic c.issued t op off (c.rs sb).toNat (c.rs sd).toNat
        (r.2.putS sd (atomResult t r.1) 6).loadedFrom LoadSrc.atom

end Sys2Proof.Machine
end

