-- ==== Sys2Proof/Machine/MatrixOps.lean ====
section
/-! DEFINITION. Operations of the matrix engine (R213 to R235): panels, chunk sums, accumulator chains, conversions, the
checks of each M instruction and the state that the queued ones leave. -/
namespace Sys2Proof.Machine

/-! ### ma registers as TS operands (Table 9.1) -/

/-- ROW. -/
def maRow (v : Word32) : Nat := bitsOf v.toNat 0 12
/-- SEG. -/
def maSeg (v : Word32) : Nat := bitsOf v.toNat 12 3
/-- SCNT. -/
def maScnt (v : Word32) : Nat := bitsOf v.toNat 16 5
/-- The register after n advances (R226): ROW := (ROW + n * STEP) mod 4096. -/
def maAdvance (v : Word32) (n : Nat) : Word32 :=
  let row := wrap (maRow v + n * sextInt (v.toNat / 2 ^ 22) 10) 12
  BitVec.ofNat 32 (v.toNat / 4096 * 4096 + row)

/-! ### Types (Table 6.5, R119) -/

/-- Element width. -/
def mtWidth : MatTy → Nat
  | .bf16 | .f16 => 16
  | .e4m3 | .e5m2 | .s8 | .z8 => 8
  | .e2m1 => 4

/-- KIND 1: integer sums. -/
def mtInt : MatTy → Bool
  | .s8 | .z8 => true
  | _ => false

/-- The scaled formats (R119). -/
def mtScaled : MatTy → Bool
  | .e4m3 | .e5m2 | .e2m1 => true
  | _ => false

/-- The exact value of an element. -/
def mtVal (t : MatTy) (b : Nat) : Fv :=
  match t with
  | .bf16 => FpTy.bf16.val b
  | .f16 => FpTy.f16.val b
  | .e4m3 => FpTy.e4m3.val b
  | .e5m2 => FpTy.e5m2.val b
  | .e2m1 => FpTy.e2m1.val b
  | .s8 => Fv.ofInt (sextInt b 8)
  | .z8 => Fv.ofInt b

/-! ### Panels (R215, R216) -/

/-- bitpos(x, k) of R215. -/
def bitpos (w x k : Nat) : Nat :=
  let g := max 1 (16 / w)
  w * (128 * g * (k / g) + g * x + k % g)

/-- The w bits of (x, k) in a panel whose bytes src gives. -/
def panelAt (src : Nat → Byte) (w x k : Nat) : Nat :=
  let p := bitpos w x k
  bitsOf (leNat (tabulate (max 1 (w / 8)) fun i => src (p / 8 + i))) (p % 8) w

/-- The bytes of a panel that begins at a TS row. -/
def tsPanel (c : Ctx) (row : Nat) : Nat → Byte := fun b => c.ts.byte (256 * row + b)

/-- Rows that n elements of width w along K occupy. -/
def panelRows (n w : Nat) : Nat := (n * w + 15) / 16

/-! ### Chains (R122, R220) -/

/-- The chunk size c of a descriptor. -/
def Chain.size (d : Chain) : Nat := 2 ^ (d.cs + 4)

/-- The live chunk count n of R122. -/
def Chain.live (d : Chain) : Nat := (min (d.lo + 2 ^ d.lw) d.k - d.lo + d.size - 1) / d.size

/-- The start of the next chunk. -/
def Chain.start (d : Chain) : Nat := d.lo + d.m * d.size

/-- Present elements of the next chunk (R224). -/
def Chain.present (d : Chain) : Nat := min (d.start + d.size) d.k - d.start

/-- The descriptor after n chunks more (R123): the occupancy bits equal m mod 2^D. -/
def Chain.after (d : Chain) (kind : Bool) (n : Nat) : Chain :=
  { d with m := d.m + n, occ := (d.m + n) % 2 ^ d.d, kset := true, kind := kind }

/-- MOPEN's descriptor, or none where CHAIN_PARAM is raised (R122, R223). -/
def Ctx.openChain (c : Ctx) (h d cs : Nat) (mk : BitVec 4) : Option Chain :=
  let k := (c.rma mk).toNat
  let r := (c.rma (mk + 1)).toNat
  let lw := bitsOf r 27 5
  let lo := bitsOf r 0 24
  let ch : Chain := ⟨.opened, false, false, h, d, cs, k, lo, lw, 0, 0⟩
  if k = 0 || decide (2 ^ 24 < k) || decide (24 < lw) || bitsOf r 24 3 != 0 || decide (2 ^ lw < ch.size) ||
      lo % 2 ^ lw != 0 || decide (k ≤ lo) || decide (2 ^ d < ch.live) || decide (c.part.as ≤ h + d) then none
  else if c.mcfg.getLsbD 2 then some { ch with state := .closed, m := ch.live, kset := true, kind := c.mcfg.getLsbD 3 }
  else some ch

/-- Clears ADOPT after an MOPEN (Table 9.4). -/
def Ctx.clearAdopt (c : Ctx) : Ctx := { c with mcfg := c.mcfg &&& 0xFFFFB }

/-- The right operand is accepted by R126. -/
def combines (l r : Chain) (same : Bool) : Bool :=
  let v := 2 ^ l.lw
  let w := 2 ^ r.lw
  !same && l.state = .closed && r.state = .closed && l.k == r.k && l.kind == r.kind && l.lo % (2 * v) == 0 &&
    r.lo == l.lo + v && (w == v || (decide (w < v) && decide (l.k ≤ r.lo + w)))

/-! ### Chunk sums (R119, R120, R224) -/

/-- The scale of block b of line x (R111): an E8M0 code, or an index into a table. -/
def scaleAt (c : Ctx) (row : Nat) (idx4 : Bool) (tab : Vector Word32 16) (x b : Nat) : Fv :=
  if idx4 then FpTy.f32.val ((tab.toList.getD (panelAt (tsPanel c row) 4 x b) 0).toNat)
  else e8m0 (panelAt (tsPanel c row) 8 x b)

/-- What a repetition multiplies: panels, type, chunk, and scales by line and block. -/
structure Product where
  ty : MatTy
  a : Nat → Byte
  b : Nat → Byte
  size : Nat
  kp : Nat
  sa : Nat → Nat → Fv
  sb : Nat → Nat → Fv

/-- The exact product of leaf k of element (i, j). -/
def Product.leaf (p : Product) (i j k : Nat) : Fv :=
  let w := mtWidth p.ty
  (mtVal p.ty (panelAt p.a w i k)).mul (mtVal p.ty (panelAt p.b w j k))

/-- S[i][j] of R224. -/
def Product.sum (p : Product) (i j : Nat) : Nat :=
  if mtInt p.ty then
    wrap ((List.range p.kp).foldl (fun acc k =>
      match p.leaf i j k with
      | .fin n m _ => acc + (if n then -(m : Int) else m)
      | _ => acc) 0) 32
  else if mtScaled p.ty then
    let blk := fun b =>
      blockLeaf (p.sa i b) (p.sb j b) (((List.range 16).filter fun t => decide (16 * b + t < p.kp)).map fun t =>
        p.leaf i j (16 * b + t))
    (treeOf add32 blk (log2Nat (p.size / 16)) 0).getD 0
  else
    let leaf := fun k =>
      if k < p.kp then some (cvtCode .f32 .rne false (p.leaf i j k)).1 else none
    (treeOf add32 leaf (log2Nat p.size) 0).getD 0

/-! ### Planes (R60) -/

/-- The 16384 codes of a plane, row-major. -/
def Ctx.plane (c : Ctx) (p : Nat) : List Nat := tabulate 16384 fun e => c.as.num (65536 * p + 4 * e) 4

/-- Writes a whole plane, which clears its poison. -/
def Ctx.setPlane (c : Ctx) (p : Nat) (xs : List Nat) : Ctx :=
  { c with
    as := c.as.write (65536 * p) (xs.flatMap (leBytes 4))
    poisonAs := c.poisonAs.filter fun w => w / 8192 != p }

/-- Element by element, lower range on the left; KIND 1 adds modulo 2^32. -/
def addPlanes (kind : Bool) (x y : List Nat) : List Nat :=
  List.zipWith (fun a b => if kind then (a + b) % 2 ^ 32 else add32 a b) x y

/-- The carry of R123 from level l up: the sum and the level that takes it; fuel bounds the levels. -/
def Ctx.carry (c : Ctx) (d : Chain) (v : List Nat) (l : Nat) : Nat → List Nat × Nat
  | 0 => (v, l)
  | fuel + 1 =>
    if l < d.d && d.occ.testBit l then c.carry d (addPlanes d.kind (c.plane (d.h + 1 + l)) v) (l + 1) fuel
    else (v, l)

/-- Merges a chunk's sum into its chain (R123). -/
def Ctx.merge (c : Ctx) (ch : BitVec 3) (kind : Bool) (sum : List Nat) : Ctx :=
  let d := { c.rch ch with kind := kind }
  let r := c.carry d sum 0 d.d
  let p := if r.2 = d.d then d.h else d.h + 1 + r.2
  (c.setPlane p r.1).setCh ch (d.after kind 1)

/-- Folds the occupied levels from l up (R124). -/
def Ctx.fold (c : Ctx) (d : Chain) (v : Option (List Nat)) (l : Nat) : Nat → Option (List Nat)
  | 0 => v
  | fuel + 1 =>
    let v1 :=
      if d.occ.testBit l then
        match v with
        | none => some (c.plane (d.h + 1 + l))
        | some x => some (addPlanes d.kind (c.plane (d.h + 1 + l)) x)
      else v
    c.fold d v1 (l + 1) fuel

/-- MCLOSE's effect (R227). -/
def Ctx.closeChain (c : Ctx) (ch : BitVec 3) : Ctx :=
  let d := c.rch ch
  let c1 :=
    if d.m = 2 ^ d.d then c
    else
      match c.fold d none 0 d.d with
      | some v => c.setPlane d.h v
      | none => c
  c1.setCh ch { d with state := .closed }

/-- MCOMB's effect (R228). -/
def Ctx.combChain (c : Ctx) (ch chb : BitVec 3) : Ctx :=
  let l := c.rch ch
  let r := c.rch chb
  (c.setPlane l.h (addPlanes l.kind (c.plane l.h) (c.plane r.h))).setCh ch { l with lw := l.lw + 1 }

/-! ### Conversions out and in (R232, R233) -/

/-- Rows of a panel of a type over K = 128. -/
def outRows (t : FpTy) : Nat := 8 * t.width

/-- The place (x, k) of the n-th element of a panel in panel order. -/
def panelPlace (w n : Nat) : Nat × Nat :=
  let g := max 1 (16 / w)
  (n % (128 * g) / g, g * (n / (128 * g)) + n % g)

/-- MOUT's effect: plane pl converted into the panel at ma(mx), with SATF8 as the unit found it (R232). -/
def Ctx.outPanel (c : Ctx) (sat : Bool) (pl row : Nat) (t : FpTy) (rm : Round) : Ctx :=
  let per := 2048 / t.width
  let one := fun n =>
    let xk := panelPlace t.width n
    (cvtCode t rm sat (FpTy.f32.val (c.as.num (65536 * pl + 512 * xk.1 + 4 * xk.2) 4))).1
  let bytes := (List.range (outRows t)).flatMap fun r =>
    leBytes 256 (ofEls t.width (tabulate per fun e => one (r * per + e)))
  { c with
    ts := c.ts.write (256 * row) bytes
    poisonTs := poisonWrite c.poisonTs 8 (256 * row) (bytes.map fun _ => false) }

/-- MLDA's effect: the panel at ma(mx) into plane pl; every conversion is exact and NaNs become canonical. -/
def Ctx.loadPanel (c : Ctx) (pl row : Nat) (t : FpTy) : Ctx :=
  c.setPlane pl (tabulate 16384 fun e =>
    (cvtCode .f32 .rne false (t.val (panelAt (tsPanel c row) t.width (e / 128) (e % 128)))).1)

/-! ### Checks (R223 to R234) -/

/-- True for a positive finite FP32 code (R111). -/
def posFin (v : Nat) : Bool :=
  match FpTy.f32.val v with
  | .fin false m _ => m != 0
  | _ => false

/-- The 16 entries that an MSCALE reads (R222). -/
def Ctx.scaleTable (c : Ctx) (mx : BitVec 4) : List Nat :=
  tabulate 16 fun e => c.ts.num (256 * maRow (c.rma mx) + 32 * maSeg (c.rma mx) + 4 * e) 4

/-- Rows that an MMA or MMAG reads, as pairs of first row and count (R215, R216, R230). -/
def Ctx.mmaRows (c : Ctx) (mmag : Bool) (t : MatTy) (ch : BitVec 3) (mx my ms mt : BitVec 4) : List (Nat × Nat) :=
  let d := c.rch ch
  let pres := panelRows d.present (mtWidth t)
  let part := d.size * mtWidth t / 16 / 8
  let slice := fun q => if mmag then min part (pres - q * part) else pres
  let nb := (d.present + 15) / 16
  let scales := fun (m : BitVec 4) (idx4 : Bool) => (maRow (c.rma m), panelRows nb (if idx4 then 4 else 8))
  [(maRow (c.rma mx), slice (c.key.rank % 8)), (maRow (c.rma my), slice (c.key.rank / 8))] ++
    (if mtScaled t then [scales ms (c.mcfg.getLsbD 0), scales mt (c.mcfg.getLsbD 1)] else [])

/-- The row of the first range that leaves the TS partition. -/
def Ctx.rowsOut (c : Ctx) (rs : List (Nat × Nat)) : Option Nat :=
  match rs.find? fun r => decide (0 < r.2) && decide (c.part.ts * 128 < r.1 + r.2) with
  | some r => some (max r.1 (c.part.ts * 128))
  | none => none

/-- The first fault of an MMA or MMAG, in the order of Table 9.6. DESIGN CHOICE (assumption 92): DETAIL of AS_RANGE names the
highest plane of the chain, h + D, where several lie outside the partition. -/
def Ctx.mmaFault (c : Ctx) (w : Nat) (mmag : Bool) (t : MatTy) (ch : BitVec 3) (mx my ms mt : BitVec 4) :
    Option (Nat × Nat) :=
  let d := c.rch ch
  let nb := (d.present + 15) / 16
  if d.state != .opened || (d.kset && d.kind != mtInt t) then some (Code.chainState, ch.toNat)
  else if d.live ≤ d.m then some (Code.chainFull, ch.toNat)
  else
    match c.rowsOut (c.mmaRows mmag t ch mx my ms mt) with
    | some r => some (Code.tsRange, r)
    | none =>
      if c.part.as ≤ d.h + d.d then some (Code.asRange, d.h + d.d)
      else if mtScaled t && (decide (maScnt (c.rma ms) < nb) || decide (maScnt (c.rma mt) < nb)) then
        some (Code.scaleShort, nb)
      else if mmag && c.info.shape != 1 then some (Code.mmagTract, w)
      else if mmag && decide (d.size * mtWidth t / 16 < 8) then some (Code.chainParam, w)
      else none

/-- The fault of MOUT and MLDA (R232, R233). -/
def Ctx.panelFault (c : Ctx) (pl : BitVec 5) (mx : BitVec 4) (t : FpTy) : Option (Nat × Nat) :=
  if c.part.as ≤ pl.toNat then some (Code.asRange, pl.toNat)
  else
    match c.rowsOut [(maRow (c.rma mx), outRows t)] with
    | some r => some (Code.tsRange, r)
    | none => none

/-- Some number of [m, m + n) leaves rest r when divided by q. -/
def hitsRest (m n r q : Nat) : Bool := decide ((r + q - m % q) % q < n)

/-- The planes that the next n merges of a chain write (R123): plane h + 1 + l where the carry ends at level l, the head
where it ends at D. -/
def mergePlanes (d : Chain) (n : Nat) : List Nat :=
  (if hitsRest d.m n (2 ^ d.d - 1) (2 ^ d.d) then [d.h] else []) ++
    ((List.range d.d).filter fun l => hitsRest d.m n (2 ^ l - 1) (2 ^ (l + 1))).map fun l => d.h + 1 + l

/-- The planes that n repetitions of an instruction write, from the descriptors of x. -/
def planesWritten (x : Ctx) (i : Instr) (n : Nat) : List Nat :=
  match i with
  | .mma _ _ ch .. | .mmag _ _ ch .. => mergePlanes (x.rch ch) n
  | .mclose _ ch => if (x.rch ch).m = 2 ^ (x.rch ch).d then [] else [(x.rch ch).h]
  | .mcomb _ ch _ => [(x.rch ch).h]
  | .mlda _ pl _ _ => [pl.toNat]
  | _ => []

/-- Planes that a unit reads. -/
def planesRead (c : Ctx) (i : Instr) : List Nat :=
  match i with
  | .mma _ _ ch .. | .mmag _ _ ch .. =>
    let d := c.rch ch
    ((List.range d.d).takeWhile fun l => d.occ.testBit l).map fun l => d.h + 1 + l
  | .mclose _ ch =>
    let d := c.rch ch
    if d.m = 2 ^ d.d then [] else ((List.range d.d).filter fun l => d.occ.testBit l).map fun l => d.h + 1 + l
  | .mcomb _ ch chb => [(c.rch ch).h, (c.rch chb).h]
  | .mout _ pl _ _ _ => [pl.toNat]
  | _ => []

/-- The fault of an MCLOSE or MCOMB whose planes leave the AS partition, as a descriptor that a switch-in has restored may have it
(R57, R355). DESIGN CHOICE (assumption 92): DETAIL names the first such plane, of those read in their order and then of the one
written. -/
def Ctx.planesFault (c : Ctx) (i : Instr) : Option (Nat × Nat) :=
  ((planesRead c i ++ planesWritten c i 1).find? fun p => decide (c.part.as ≤ p)).map fun p => (Code.asRange, p)

/-- The fault of an M instruction in a state of the context (R57, R223, R225, R227, R228, R232, R222). A poisoned entry of a table
is not judged: the unit that reads it faults (R345). -/
def Ctx.mFault (c : Ctx) (i : Instr) : Option (Nat × Nat) :=
  match i with
  | .mopen _ _ h d cs mkr =>
    match c.openChain h.toNat d.toNat cs.toNat mkr with
    | some _ => none
    | none => some (Code.chainParam, wordOf i)
  | .mclose _ ch =>
    if (c.rch ch).state != .opened then some (Code.chainState, ch.toNat)
    else if (c.rch ch).m != (c.rch ch).live then some (Code.chainOpen, ch.toNat)
    else c.planesFault i
  | .mcomb _ ch chb =>
    if combines (c.rch ch) (c.rch chb) (ch == chb) then c.planesFault i
    else some (Code.treeAlign, ch.toNat + chb.toNat * 8)
  | .mout _ pl mx t _ => c.panelFault pl mx t
  | .mlda _ pl mx t => c.panelFault pl mx t
  | .mscale _ _ mx =>
    let off := 256 * maRow (c.rma mx) + 32 * maSeg (c.rma mx)
    if c.tsSize < off + 64 then some (Code.tsRange, max (maRow (c.rma mx)) (c.part.ts * 128))
    else
      match (List.range 16).find? fun e =>
        !posFin ((c.scaleTable mx).getD e 0) && !poisonHit c.poisonTs 8 (off + 4 * e) 4 with
      | some e => some (Code.scaleTable, e)
      | none => none
  | .mma _ t ch mx my ms mt => c.mmaFault (wordOf i) false t ch mx my ms mt
  | .mmag _ t ch mx my ms mt => c.mmaFault (wordOf i) true t ch mx my ms mt
  | _ => none

/-! ### The state that queued instructions leave (R225) -/

/-- The ma registers that an instruction names as TS operands, each once (R226). -/
def mOperands (i : Instr) : List (BitVec 4) :=
  match i with
  | .mma _ t _ mx my ms mt | .mmag _ t _ mx my ms mt =>
    (if mtScaled t then [mx, my, ms, mt] else [mx, my]).eraseDups
  | .mout _ _ mx _ _ | .mlda _ _ mx _ => [mx]
  | _ => []

/-- n advances of a governed instruction's registers (R226). -/
def Ctx.advanceMa (c : Ctx) (i : Instr) (n : Nat) : Ctx :=
  (mOperands i).foldl (fun x m => x.setMa m (maAdvance (x.rma m) n)) c

/-- The immediate of MSET and MADD: 16 bits, or 36 widened, signed (R234). -/
def maImm (lent : Option (BitVec 20)) (imm : BitVec 16) : Int := immS lent 16 imm

/-- Descriptors, ma registers and configuration after n repetitions of an instruction, without its planes. -/
def Ctx.mAhead (c : Ctx) (i : Instr) (lent : Option (BitVec 20)) (n : Nat) : Ctx :=
  match i with
  | .mopen _ ch h d cs mkr =>
    match c.openChain h.toNat d.toNat cs.toNat mkr with
    | some x => (c.setCh ch x).clearAdopt
    | none => c
  | .mclose _ ch => c.setCh ch { c.rch ch with state := .closed }
  | .mcomb _ ch _ => c.setCh ch { c.rch ch with lw := (c.rch ch).lw + 1 }
  | .mcfg _ cfg => { c with mcfg := cfg }
  | .mset _ md imm => c.setMa md (BitVec.ofInt 32 (maImm lent imm))
  | .madd _ md imm => c.setMa md (c.rma md + BitVec.ofInt 32 (n * maImm lent imm))
  | .mma _ t ch .. => c.setCh ch ((c.rch ch).after (mtInt t) n)
  | .mmag _ t ch .. => c.setCh ch ((c.rch ch).after (mtInt t) n)
  | _ => c

/-- The state after one queued entry, each guard that has not been read taken as true (R225). -/
def Ctx.entryAhead (c : Ctx) (m : MEntry) : Ctx :=
  let c1 := c.mAhead m.ins m.lent m.reps
  if m.governed then c1.advanceMa m.ins m.reps else c1

/-- The state that a new M instruction finds at issue (R225). -/
def Ctx.ahead (c : Ctx) : Ctx := c.mq.foldl Ctx.entryAhead c

/-! ### Busy rows and planes (R94, R219) -/

/-- The rows that one repetition of an instruction reads in TS, from the ma registers of x. -/
def rowsRead (x : Ctx) (i : Instr) : List (Nat × Nat) :=
  match i with
  | .mma _ t ch mx my ms mt => x.mmaRows false t ch mx my ms mt
  | .mmag _ t ch mx my ms mt => x.mmaRows true t ch mx my ms mt
  | .mlda _ _ mx t => [(maRow (x.rma mx), outRows t)]
  | .mscale _ _ mx => [(maRow (x.rma mx), if maSeg (x.rma mx) = 7 then 2 else 1)]
  | _ => []

/-- The rows that a repetition of an MOUT writes. -/
def rowsWritten (x : Ctx) (i : Instr) : List (Nat × Nat) :=
  match i with
  | .mout _ _ mx t _ => [(maRow (x.rma mx), outRows t)]
  | _ => []

/-- A row lies in a range. -/
def inRows (row : Nat) (r : Nat × Nat) : Bool := decide (r.1 ≤ row) && decide (row < r.1 + r.2)

/-- True for an MMAG. -/
def isMmag (i : Instr) : Bool :=
  match i with
  | .mmag .. => true
  | _ => false

/-- The rows that a repetition of an entry reads or writes, from the registers of y. An MMAG whose step is under way has posted
its slices, and reads them again should a switch-out abandon the step, so their rows stay busy until the step completes
(DEDUCED, assumption 129). -/
def entryRows (y : Ctx) (m : MEntry) : List (Nat × Nat) := rowsRead y m.ins ++ rowsWritten y m.ins

/-- The guard of an M instruction. -/
def guardOf (i : Instr) : Guard :=
  match i with
  | .mopen g .. | .mclose g _ | .mcomb g .. | .mout g .. | .mlda g .. | .mscale g .. | .mcfg g _ | .mset g ..
  | .madd g .. | .mma g .. | .mmag g .. => g
  | _ => ⟨false, 0⟩

/-- The guards of an entry's repetitions to come may be false: REPM governs it, and it does not name f0 (R131, R158). -/
def MEntry.unsure (m : MEntry) : Bool := m.governed && guardOf m.ins != ⟨false, 0⟩

/-- The context as repetition i of an entry finds it: its registers have advanced i times (R226), and its chain is by i chunks
further, or by none where the repetitions before it may have a false guard, since the earliest chunk reads the most rows. -/
def Ctx.atRep (x : Ctx) (m : MEntry) (i : Nat) : Ctx :=
  if m.governed then (x.mAhead m.ins m.lent (if m.unsure then 0 else i)).advanceMa m.ins i else x

/-- A queued entry may still read or write a TS row: in one of its repetitions left, with x as the entry finds the
context. Rows come back after 4096 advances. -/
def entryUses (x : Ctx) (m : MEntry) (row : Nat) : Bool :=
  (List.range (min m.reps 4096)).any fun i => (entryRows (x.atRep m i) m).any (inRows row)

/-- The states that an entry may leave, as far as they decide which rows later entries use: with every guard true, and, where a
guard may be false, with none. -/
def Ctx.entryEnds (x : Ctx) (m : MEntry) : List Ctx :=
  x.entryAhead m :: if m.unsure then [x.advanceMa m.ins m.reps] else []

/-- A row is busy for a copy of bundle b (R219): an M instruction of that bundle or an earlier one may still use it. -/
def busyRow (row b : Nat) : Ctx → List MEntry → Bool
  | _, [] => false
  | x, m :: ms => (decide (m.bundle ≤ b) && entryUses x m row) || (x.entryEnds m).any fun y => busyRow row b y ms

/-- The planes that an entry holds write-busy (R219): of an MMA or MMAG all of its chain, the head and every level, whichever of
them its next merge writes (Table 19.7). -/
def planesBusy (x : Ctx) (m : MEntry) : List Nat :=
  match m.ins with
  | .mma _ _ ch .. | .mmag _ _ ch .. => (List.range ((x.rch ch).d + 1)).map fun l => (x.rch ch).h + l
  | i => planesWritten x i m.reps

/-- A plane is write-busy for a CPYA of bundle b (R94, R219). -/
def busyPlane (pl b : Nat) : Ctx → List MEntry → Bool
  | _, [] => false
  | x, m :: ms => (decide (m.bundle ≤ b) && (planesBusy x m).contains pl) || busyPlane pl b (x.entryAhead m) ms

/-! ### CPYAs that M instructions wait for (R94) -/

/-- An operation will take no byte any more: it has met a fault that ends the tract, and no request of it is out. -/
def Op.spent (o : Op) : Bool := o.out == 0 && o.fault.any fun r => r.cls != 3

/-- A CPYA has still to take bytes of a plane; one that has been cut takes those from DONE on when CPYR continues it (R254). -/
def Op.awaits (o : Op) (plane : Nat) : Bool :=
  let from_ := min o.next o.taken
  o.kind == .cpya && !o.spent && decide (from_ < o.total) &&
    meets (o.src.toNat + from_) (o.total - from_) (65536 * plane) 65536

/-- A CPYA first issued before bundle b has still to take bytes of a plane (R94). -/
def Ctx.planeAwaited (c : Ctx) (b plane : Nat) : Bool := c.ops.any fun o => decide (o.origin < b) && o.awaits plane

/-! ### What goes on for a held LATOM when issue stops (R47, R137, R347) -/

/-- The first queued M instruction waits for a CPYA that has been cut (R94, R254), and so does everything behind it. -/
def Ctx.headCut (c : Ctx) : Bool :=
  match c.mq with
  | m :: _ =>
    !m.running && (planesWritten c m.ins 1).any fun p =>
      c.ops.any fun o => decide (o.origin < m.bundle) && o.cut.isSome && o.awaits p
  | [] => false

/-- What is left of an operation meets a row or plane that a queued M instruction keeps busy for it (R94, R219). -/
def Ctx.waitsAtUnit (c : Ctx) (o : Op) : Bool :=
  let touched := fun (lo unit : Nat) =>
    (List.range ((lo + o.total - 1) / unit + 1 - (lo + o.next) / unit)).map fun i => (lo + o.next) / unit + i
  decide (o.next < o.total) &&
    match o.kind with
    | .cpyt | .cpylt =>
      (touched (256 * bitsOf o.dst.toNat 0 12 + 32 * bitsOf o.dst.toNat 12 3) 256).any fun r => busyRow r o.behind c c.mq
    | .cpya => (touched o.src.toNat 65536).any fun p => busyPlane p o.behind c c.mq
    | _ => false

/-- What a held LATOM waits for keeps it from its end, unless the context issues again: an operation that has been cut or has
failed, or waits at an M instruction that waits for a cut CPYA; or a failed M instruction (R98, R342, R352). -/
def Ctx.latomStuck (c : Ctx) (h : HeldLatom) : Bool :=
  c.failed.any (fun n => decide (n ≤ h.bundle)) ||
    c.ops.any fun o => (o.cut.isSome || o.fault.isSome || (c.headCut && c.waitsAtUnit o)) && decide (o.origin ≤ h.bundle) &&
      !(o.origin == h.bundle && o.isRelease)

/-- A held LATOM whose result is to land though issue has stopped: what its release covers goes on to its end. -/
def Ctx.latomRuns (c : Ctx) : Bool := c.latom.any fun h => !c.latomStuck h

/-- The bundles that the release of such a LATOM covers are those before this one; 0 without one. -/
def Ctx.latomEnd (c : Ctx) : Nat :=
  match c.latom with
  | some h => if c.latomStuck h then 0 else h.bundle + 1
  | none => 0

/-- An operation goes on where M instructions of the bundles before n do: the LATOM waits for it, or a queued one of those M
instructions does, to write a plane (R94). -/
def Ctx.opGoesOn (c : Ctx) (n : Nat) (o : Op) : Bool :=
  decide (o.origin < c.latomEnd) ||
    (o.kind == .cpya && c.mq.any fun m => decide (o.origin < m.bundle) && decide (m.bundle < n))

/-- The bundles up to which M instructions go on: those before n, and those that an operation which goes on waits behind (R219).
fuel is one more than the queue has entries. -/
def Ctx.reachFrom (c : Ctx) (n : Nat) : Nat → Nat
  | 0 => n
  | fuel + 1 =>
    c.reachFrom ((c.ops.filter fun o => o.cut.isNone && c.opGoesOn n o).foldl (fun k o => max k (o.behind + 1)) n) fuel

/-- The bundles up to which M instructions of a context go on, where its own LATOM asks for it or those before n are to. -/
def Ctx.reach (c : Ctx) (n : Nat) : Nat :=
  if c.latomEnd = 0 && n = 0 then 0 else c.reachFrom (max c.latomEnd n) 3

/-- The bundle behind the last queued MMAG; 0 without one. -/
def Ctx.mmagEnd (c : Ctx) : Nat := (c.mq.filter fun m => isMmag m.ins).foldl (fun k m => max k (m.bundle + 1)) 0

/-- A held LATOM waits for an MMAG of the context. -/
def Ctx.latomMmag (c : Ctx) : Bool := c.latomRuns && c.mq.any fun m => isMmag m.ins && decide (m.bundle < c.reach 0)

/-- All sixteen slices of the running step are there (R230). -/
def Ctx.slicesIn (c : Ctx) : Bool := c.mmagIn.length == 16

/-- An operation or M instruction of bundle n has failed for good. -/
def Ctx.fails (c : Ctx) (n : Nat) : Ctx := { c with failed := some (min n (c.failed.getD n)) }

/-! ### Checks at issue (R225) -/

/-- A queued MOUT has still to write a row. -/
def outPending (row : Nat) : Ctx → List MEntry → Bool
  | _, [] => false
  | x, m :: ms => (!(rowsWritten x m.ins).isEmpty && entryUses x m row) || outPending row (x.entryAhead m) ms

/-- A queued MOUT has still to write a row that an MSCALE reads, as it finds the context in x: it waits, since its fault is
bundle-precise (R111). -/
def Ctx.tableWaitsIn (c x : Ctx) (i : Instr) : Bool :=
  match i with
  | .mscale .. =>
    ((rowsRead x i).flatMap fun r => (List.range r.2).map fun j => r.1 + j).any fun row => outPending row c c.mq
  | _ => false

/-- As tableWaitsIn, with each guard that has not been read taken as true. -/
def Ctx.tableWaits (c : Ctx) (i : Instr) : Bool := c.tableWaitsIn c.ahead i

/-- The fault that an M instruction raises at issue, as it finds the context in x. -/
def Ctx.mFaultIn (c x : Ctx) (i : Instr) : Option (Nat × Nat) :=
  match x.mFault i with
  | some (code, d) => if code = Code.scaleTable && c.tableWaitsIn x i then none else some (code, d)
  | none => none

/-- The fault that an M instruction raises at issue (R225). -/
def Ctx.mIssueFault (c : Ctx) (i : Instr) : Option (Nat × Nat) := c.mFaultIn c.ahead i

/-! ### Issue of an M instruction (R158, R159, R217) -/

/-- MMA, MMAG, MOUT, MLDA and MADD admit repetition (R159). -/
def mRepeats (i : Instr) : Bool :=
  match i with
  | .mma .. | .mmag .. | .mout .. | .mlda .. | .madd .. => true
  | _ => false

/-- A governed instruction has repetitions still to start, so no later M bundle issues (R158). -/
def Ctx.repsToStart (c : Ctx) : Bool :=
  c.mq.any fun m => m.governed && decide ((if m.running then 1 else 0) < m.reps)

/-- A bundle with an M instruction waits: until the last repetition of an earlier governed one has started (R158), while an
MMAG step has not all its slices (R231), and an MSCALE that is performed behind an MOUT that writes what it reads. -/
def Ctx.mWaits (c : Ctx) (ok : Bool) (i : Instr) : Bool :=
  c.repsToStart || c.mq.any (fun m => isMmag m.ins && !m.active) || (ok && c.tableWaits i)

/-- Some number below n has the property. -/
def anyBelow (f : Nat → Bool) : Nat → Bool
  | 0 => false
  | n + 1 => f n || anyBelow f n

/-- The state that a new M instruction finds if j of the guards of the last queued entry are true. -/
def Ctx.aheadWith (c : Ctx) (j : Nat) : Ctx :=
  match c.mq.getLast? with
  | some m => ((c.mq.dropLast.foldl Ctx.entryAhead c).mAhead m.ins m.lent j).advanceMa m.ins m.reps
  | none => c

/-- What an M instruction's checks find depends on how many guards of a queued entry are true: on a register that a MADD leaves,
or on the chunks of a chain that an MCLOSE counts. -/
def dependsOn (i : Instr) (m : MEntry) : Bool :=
  match m.ins, i with
  | .madd _ md _, .mopen _ _ _ _ _ mkr => md == mkr || md == mkr + 1
  | .madd _ md _, .mout _ _ mx _ _ => md == mx
  | .madd _ md _, .mlda _ _ mx _ => md == mx
  | .madd _ md _, .mscale _ _ mx => md == mx
  | .mma _ _ ch .., .mclose _ x => ch == x
  | .mmag _ _ ch .., .mclose _ x => ch == x
  | _, _ => false

/-- A fault of an M instruction hinges on guards that the last queued entry, a governed one, has not read: with some number of
them true the checks find another fault, or none. -/
def Ctx.hinges (c : Ctx) (i : Instr) (f : Nat × Nat) : Bool :=
  c.repsToStart && c.mq.getLast?.any fun m =>
    m.unsure && dependsOn i m &&
      anyBelow (fun j => decide (m.running.toNat ≤ j) && c.mFaultIn (c.aheadWith j) i != some f) (m.reps + 1)

/-- The checks of an M instruction are made while its bundle waits as well (R139). Those of an MMA or MMAG take each guard not
yet read as true (R225). Of any other instruction a fault that hinges on such guards is raised once they have been read, and
every other one at once (DEDUCED, assumption 108). -/
def Ctx.mCheck (c : Ctx) (i : Instr) : Option (Nat × Nat) := (c.mIssueFault i).filter fun f => !c.hinges i f

/-- Puts an M instruction into the engine queue, or holds the bundle while the queue is full (R217). -/
def Ctx.mPush (c : Ctx) (i : Instr) (governed : Bool) (n : Nat) : Ctx :=
  if decide (2 ≤ c.mq.length) || c.acqPending then c.hold
  else { c with repm := none, mq := c.mq ++ [⟨i, c.lentTo 4, governed, n, c.issued, false, false, false, c.satf8⟩] }

/-- Raises a fault of the M slot, or goes on. -/
def Ctx.mOr (c : Ctx) (f : Option (Nat × Nat)) (k : Ctx → Ctx) : Ctx :=
  match f with
  | some (code, d) => c.raise code 4 d
  | none => k c

/-- Issue of an M instruction: governed by a pending REPM count or not (R158). -/
def Ctx.mIssue (c : Ctx) (g : Guard) (i : Instr) : Ctx :=
  let ok := c.guardOk g
  let wait := fun (k : Ctx → Ctx) (c : Ctx) => if c.mWaits ok i then c.hold else k c
  match c.repm with
  | some n =>
    if mRepeats i then
      c.mOr (if ok then c.mCheck i else none) (wait fun c => c.mPush i true n)
    else if ok then c.raise Code.repmTarget 4 (wordOf i)
    else wait (fun c => { c with repm := none }) c
  | none =>
    if ok then c.mOr (c.mCheck i) (wait fun c => c.mPush i false 1) else wait id c

end Sys2Proof.Machine
end

