-- ==== Sys2Proof/Machine/Matrix.lean ====
section
/-! DEFINITION. The M slot (R221 to R234): each instruction is checked at issue and enters the engine queue; its units
take effect at M_UNIT_END. -/
namespace Sys2Proof.Machine
open Host

/-- MOPEN (R223). -/
def execMopen (g : Guard) (ch : BitVec 3) (h d : BitVec 5) (cs : BitVec 3) (mk : BitVec 4) (s : State) :
    Outcome State Fault Refusal :=
  onCur s fun c => c.mIssue g (.mopen g ch h d cs mk)

/-- MCLOSE (R227). -/
def execMclose (g : Guard) (ch : BitVec 3) (s : State) : Outcome State Fault Refusal :=
  onCur s fun c => c.mIssue g (.mclose g ch)

/-- MCOMB (R228). -/
def execMcomb (g : Guard) (ch chb : BitVec 3) (s : State) : Outcome State Fault Refusal :=
  onCur s fun c => c.mIssue g (.mcomb g ch chb)

/-- MOUT (R232). -/
def execMout (g : Guard) (pl : BitVec 5) (mx : BitVec 4) (t : FpTy) (rm : Rm) (s : State) :
    Outcome State Fault Refusal :=
  onCur s fun c => c.mIssue g (.mout g pl mx t rm)

/-- MLDA (R233). -/
def execMlda (g : Guard) (pl : BitVec 5) (mx : BitVec 4) (t : FpTy) (s : State) : Outcome State Fault Refusal :=
  onCur s fun c => c.mIssue g (.mlda g pl mx t)

/-- MSCALE (R222). -/
def execMscale (g : Guard) (tabB : Bool) (mx : BitVec 4) (s : State) : Outcome State Fault Refusal :=
  onCur s fun c => c.mIssue g (.mscale g tabB mx)

/-- MCFG (R221). -/
def execMcfg (g : Guard) (cfg : BitVec 20) (s : State) : Outcome State Fault Refusal :=
  onCur s fun c => c.mIssue g (.mcfg g cfg)

/-- MSET (R234). -/
def execMset (g : Guard) (md : BitVec 4) (imm : BitVec 16) (s : State) : Outcome State Fault Refusal :=
  onCur s fun c => c.mIssue g (.mset g md imm)

/-- MADD (R234). -/
def execMadd (g : Guard) (md : BitVec 4) (imm : BitVec 16) (s : State) : Outcome State Fault Refusal :=
  onCur s fun c => c.mIssue g (.madd g md imm)

/-- MMA (R224). -/
def execMma (g : Guard) (t : MatTy) (ch : BitVec 3) (mx my ms mt : BitVec 4) (s : State) :
    Outcome State Fault Refusal :=
  onCur s fun c => c.mIssue g (.mma g t ch mx my ms mt)

/-- MMAG (R230). -/
def execMmag (g : Guard) (t : MatTy) (ch : BitVec 3) (mx my ms mt : BitVec 4) (s : State) :
    Outcome State Fault Refusal :=
  onCur s fun c => c.mIssue g (.mmag g t ch mx my ms mt)

end Sys2Proof.Machine
end

