-- ==== Sys2Proof/Machine/CopyOps.lean ====
section
/-! DEFINITION. Q and N operations at issue (R242, R243): the checks, the engine entry, and the records and lists read
from own LM (R246, R251, R253, R259). -/
namespace Sys2Proof.Machine

/-! ### Checks, in the order in which one operation's faults are looked for -/

/-- A check at issue: the code and DETAIL of its fault. -/
abbrev Check := Option (Nat × Nat)

/-- The first fault of a list of checks. -/
def firstFault : List Check → Check
  | [] => none
  | some f :: _ => some f
  | none :: rest => firstFault rest

/-- Fault f unless ok. -/
def orFault (ok : Bool) (code detail : Nat) : Check := if ok then none else some (code, detail)

/-- The control operand: reserved bits (R242), then SEM in the partition (R61). w is the slot word. -/
def Ctx.ctlCheck (c : Ctx) (ctl : Word) (used lenBits w : Nat) : List Check :=
  [orFault (ctlClean ctl used lenBits) Code.resOpnd w,
   orFault (decide (ctlSem ctl < c.sems.length)) Code.semRange (ctlSem ctl)]

/-- A global address operand is canonical (R64). -/
def canonCheck (v : Word) (operand : Nat) : Check := orFault (canonical v) Code.noncanon operand

/-- A remote LM address has no reserved bit set (R66). w is the slot word. -/
def peerCheck (v : Word) (isSem : Bool) (w : Nat) : Check := orFault (rlClean v isSem) Code.resOpnd w

/-- LEN of RST, RGET and MCAST is at most 2^21 (Table 10.9). DESIGN CHOICE (assumption 104): a greater LEN raises RES_OPND at
issue; the table gives the limit and no fault. -/
def lenLimit (ctl : Word) (w : Nat) : Check := orFault (decide (ctlLen ctl ≤ 2 ^ 21)) Code.resOpnd w

/-- An operand is a multiple of n. -/
def alignCheck (v : Word) (n : Nat) : Check := orFault (v.toNat % n == 0) Code.misalign (v.toNat % 2 ^ 32)

/-- A global operand of a copy, unless the flag puts it into LM. -/
def globalUnless (lm : Bool) (v : Word) (operand : Nat) : Check := if lm then none else canonCheck v operand

/-- The TS address and LEN of CPYT and CPYLT (R247). -/
def tsCheck (o : Op) (w : Nat) : Check :=
  orFault (decide (o.dst.toNat < 2 ^ 15) && ctlLen o.ctl % 32 == 0) Code.resOpnd w

/-- A record or list of n bytes read from own LM at issue (R237, R243, R345). -/
def Ctx.recCheck (c : Ctx) (off : Word) (n align : Nat) : Check := c.lmFault [off.toNat] n align true

/-- The entries of an MCAST list. -/
def mcastList (bs : List Byte) (n : Nat) : List Word := tabulate n fun i => BitVec.ofNat 64 (recField bs (8 * i) 8)

/-- The checks of an MCAST's list of n = DST entries at AUX: their number, the list's place in own LM, and each entry (R66,
R259). -/
def Ctx.listCheck (c : Ctx) (dst aux : Word) (w : Nat) : List Check :=
  let n := dst.toNat
  [orFault (decide (1 ≤ n) && decide (n ≤ 64)) Code.resOpnd w, c.recCheck aux (8 * n) 8,
   orFault ((mcastList (c.lm.read aux.toNat (8 * bitsOf n 0 7)) n).all fun v => rlClean v false) Code.resOpnd w]

/-- The RET operand of an atomic, LEN[20:0] (R249). -/
def Ctx.retCheck (c : Ctx) (ctl : Word) (n : Nat) : Check :=
  if ctlRet ctl then
    let off := bitsOf ctl.toNat 0 21
    if off % n != 0 then some (Code.misalign, off)
    else if c.lmSize < off + n then some (Code.lmRange, off) else none
  else none

/-- LEN bits that an atomic uses: LEN[20:0] with RET, none without (R242, R249). -/
def retLenBits (ctl : Word) : Nat := if ctlRet ctl then 21 else 0

/-- FLAGS bits that a copy uses (Tables 10.3, 10.4 and 10.9). -/
def flagsUsed : OpKind → Nat
  | .cpy | .cpy2 | .rcpy => 0b11
  | .cpya | .cpyz => 0b10
  | .cpyg => 0b11000
  | .atom | .fadd | .ratom => 0b100
  | .cpyt | .cpylt | .atomx | .rst | .rsts | .rget | .rsig | .mcast => 0

/-- The checks of the operands of a copy of each kind (R64, R66, R243, R247, R248, R256, R259), at its first issue and again
at CPYR. w is the slot word. DESIGN CHOICE (assumption 105): a CPYG's index list off its alignment (Table 10.4) raises MISALIGN at
issue. -/
def Ctx.operandChecks (c : Ctx) (o : Op) (w : Nat) : List Check :=
  match o.kind with
  | .cpy | .cpy2 => [globalUnless (ctlDsp o.ctl) o.dst 0, globalUnless (ctlSsp o.ctl) o.src 1]
  | .cpyt => [tsCheck o w, canonCheck o.src 1]
  | .cpylt => [tsCheck o w, alignCheck o.src 32]
  | .cpya =>
    [orFault (decide (o.src.toNat < 2 ^ 21) && ctlLen o.ctl % 4 == 0) Code.resOpnd w, alignCheck o.src 4,
     if ctlDsp o.ctl then alignCheck o.dst 4 else none, globalUnless (ctlDsp o.ctl) o.dst 0]
  | .cpyz => [globalUnless (ctlDsp o.ctl) o.dst 0]
  | .cpyg =>
    [orFault (ctlLen o.ctl % ctlGsz o.ctl == 0) Code.resOpnd w, canonCheck o.src 1, alignCheck o.aux 4]
  | .rst => [lenLimit o.ctl w, peerCheck o.dst false w]
  | .rcpy =>
    [if ctlDsp o.ctl then peerCheck o.dst false w else canonCheck o.dst 0, globalUnless (ctlSsp o.ctl) o.src 1]
  | .rget => [lenLimit o.ctl w, peerCheck o.src false w]
  | .mcast => lenLimit o.ctl w :: c.listCheck o.dst o.aux w
  | .atom | .fadd | .atomx | .rsts | .rsig | .ratom => []

/-! ### Engine entries (R243) -/

/-- The lowest free entry of an engine: 0 to 31 for Q, 32 to 63 for N. R243 and R339 have an operation take an entry and do not say
which (DESIGN CHOICE, assumption 128). -/
def Ctx.freeEntry (c : Ctx) (base : Nat) : Option Nat :=
  ((List.range 32).map fun i => base + i).find? fun e => !c.ops.any fun o => o.e = e

/-- An operation with every operand absent, issued in this bundle. -/
def Ctx.blankOp (c : Ctx) (kind : OpKind) (dst src ctl : Word) : Op where
  e := 0
  kind := kind
  dst := dst
  src := src
  ctl := ctl
  aux := 0
  recd := []
  ty := .z32
  aop := .add
  ord := .relaxed
  val := 0
  expd := 0
  bundle := c.issued
  origin := c.issued
  behind := c.issued
  total := ctlLen ctl
  next := 0
  taken := 0
  carry := []
  out := 0
  outTile := 0
  outDie := 0
  outPkg := 0
  begun := false
  sent := false
  fault := none
  cut := none
  snap := []

/-- Issues an operation on the engine with entries from base on: its first fault, else a stall while no entry is free or
an ATOM.acq holds it back, else the entry (R243, R249). -/
def Ctx.opIssue (c : Ctx) (sl base : Nat) (checks : List Check) (o : Op) : Ctx :=
  match firstFault checks with
  | some (code, d) => c.raise code sl d
  | none =>
    if c.acqPending then c.hold
    else
      match c.freeEntry base with
      | some e => { c with ops := c.ops ++ [{ o with e := e }] }
      | none => c.hold

/-- The checks of a copy at its first issue: its control operand (R242), then its other operands. -/
def Ctx.copyChecks (c : Ctx) (o : Op) (w : Nat) : List Check :=
  c.ctlCheck o.ctl (flagsUsed o.kind) 40 w ++ c.operandChecks o w

/-- Issues a copy whose operands are all in registers; w is the slot word. -/
def Ctx.copyIssue (c : Ctx) (sl base w : Nat) (o : Op) : Ctx := c.opIssue sl base (c.copyChecks o w) o

/-- As opIssue, for an operation that reads some ranges of own LM, offset and length, at issue: the read of a byte waits for an
L-slot store to it that a release LATOM still holds back (R90, R241). DESIGN CHOICE (assumption 25): what the record or list holds
is judged before that store, with the other faults of the bundle (R139). -/
def Ctx.recIssue (c : Ctx) (sl base : Nat) (reads : List (Nat × Nat)) (checks : List Check) (o : Op) : Ctx :=
  match firstFault checks with
  | some (code, d) => c.raise code sl d
  | none => if reads.any fun p => c.latomMeets c.issued p.1 p.2 then c.hold else c.opIssue sl base [] o

/-- What an ATOMX reads of its record at off: as many words of CODE as LEN says, and the 64 bytes behind CODE (Table 10.6). -/
def atomxReads (off len : Nat) : List (Nat × Nat) := [(off, 4 * len), (off + 64, 64)]

/-- The checks of an ATOMX record: alignment and range of all its 128 bytes (R237), and poison of what is read (R345). -/
def Ctx.atomxCheck (c : Ctx) (off : Word) (len : Nat) : List Check :=
  c.lmFault [off.toNat] 128 32 false :: (atomxReads off.toNat len).map fun p => c.lmFault [p.1] p.2 32 true

/-- The record as an ATOMX takes it: the words of CODE at and beyond LEN, which are not read, stand as zero. -/
def Ctx.atomxRecord (c : Ctx) (off len : Nat) : List Byte :=
  c.lm.read off (4 * len) ++ List.replicate (64 - 4 * len) 0 ++ c.lm.read (off + 64) 64

/-! ### Records -/

/-- A CPY2 record is admitted (R246): reserved bits zero, ROWS from 1 to 2^24. -/
def cpy2Ok (r : List Byte) : Bool :=
  let rows := recField r 16 4
  decide (1 ≤ rows) && decide (rows ≤ 2 ^ 24) && recField r 20 12 == 0

/-- ROWS of a CPY2 record. -/
def cpy2Rows (r : List Byte) : Nat := recField r 16 4

/-- The opcode that a copy's resume record names, with its slot (Table 10.8). -/
def opcOf : OpKind → Option (Nat × Nat)
  | .cpy => some (6, 1)
  | .cpy2 => some (6, 2)
  | .cpyt => some (6, 3)
  | .cpylt => some (6, 4)
  | .cpya => some (6, 5)
  | .cpyz => some (6, 6)
  | .cpyg => some (6, 7)
  | .rst => some (7, 1)
  | .rcpy => some (7, 3)
  | .rget => some (7, 4)
  | .mcast => some (7, 6)
  | .atom | .fadd | .atomx | .rsts | .rsig | .ratom => none

/-- The copy that SLOT and OPC of a resume record name (R253). -/
def kindOfOpc (slot opc : Nat) : Option OpKind :=
  match slot, opc with
  | 6, 1 => some .cpy
  | 6, 2 => some .cpy2
  | 6, 3 => some .cpyt
  | 6, 4 => some .cpylt
  | 6, 5 => some .cpya
  | 6, 6 => some .cpyz
  | 6, 7 => some .cpyg
  | 7, 1 => some .rst
  | 7, 3 => some .rcpy
  | 7, 4 => some .rget
  | 7, 6 => some .mcast
  | _, _ => none

/-- Bytes of the whole operation: rows of a CPY2, targets of an MCAST (R246, R259). -/
def opTotal (kind : OpKind) (dst ctl : Word) (recd : List Byte) : Nat :=
  match kind with
  | .cpy2 => cpy2Rows recd * ctlLen ctl
  | .mcast => bitsOf dst.toNat 0 7 * ctlLen ctl
  | _ => ctlLen ctl

/-- A resume record, 128 bytes (Table 10.8). -/
def resumeRecord (kind : OpKind) (dst src ctl aux : Word) (done : Nat) (recd : List Byte) (cause : Nat) : List Byte :=
  let so := (opcOf kind).getD (0, 0)
  let rec32 := if kind = .cpy2 then recd else []
  leBytes 1 1 ++ leBytes 1 so.1 ++ leBytes 1 so.2 ++ leBytes 5 0 ++ leBytes 8 dst.toNat ++ leBytes 8 src.toNat ++
    leBytes 8 ctl.toNat ++ leBytes 8 aux.toNat ++ leBytes 8 done ++ leBytes 32 (leNat rec32) ++ leBytes 8 cause ++
    leBytes 40 0

/-- The operation that a resume record describes, issued in this bundle; none for a record that CPYR refuses (R254). An
MCAST's list is read again from LM at AUX, since the record does not hold it. DESIGN CHOICE (assumption 23): a record with
reserved bits of CTL set, or a non-zero REC where the copy is no CPY2, is refused with RREC_BAD too, and a non-zero AUX of a copy
that has none is not. -/
def Ctx.opOfRecord (c : Ctx) (r : List Byte) : Option Op :=
  match kindOfOpc (recField r 1 1) (recField r 2 1) with
  | none => none
  | some kind =>
    let w := fun i => BitVec.ofNat 64 (recField r i 8)
    let dst := w 8
    let ctl := w 24
    let recd := if kind = .mcast then c.lm.read (w 32).toNat (8 * bitsOf dst.toNat 0 7) else (r.drop 48).take 32
    let total := opTotal kind dst ctl recd
    if recField r 0 1 != 1 || recField r 3 5 != 0 || recField r 88 40 != 0 ||
        (kind != .cpy2 && recField r 48 32 != 0) || (kind = .cpy2 && !cpy2Ok recd) ||
        !ctlClean ctl (flagsUsed kind) 40 || decide (total < recField r 40 8) then none
    else
      some { c.blankOp kind dst (w 16) ctl with
        aux := w 32, recd := recd, total := total, next := recField r 40 8, taken := recField r 40 8 }

end Sys2Proof.Machine
end

