-- ==== Sys2Proof/Machine/Copy.lean ====
section
/-! DEFINITION. The Q slot (R244 to R254): copies and atomics of the global copy engine at issue. Their requests are
made by COPY_REQUEST_SERVE and performed at the homes. -/
namespace Sys2Proof.Machine
open Host

/-- CPY (R244). -/
def execCpy (g : Guard) (ad src ac : BitVec 5) (s : State) : Outcome State Fault Refusal :=
  slotRun s g fun c =>
    c.copyIssue 6 0 (wordOf (.cpy g ad src ac)) (c.blankOp .cpy (c.ra ad) (c.ra src) (c.ra ac))

/-- CPY2 (R246): the record is read at issue; a record it refuses raises CPY2_REC. -/
def execCpy2 (g : Guard) (ad src ac ax : BitVec 5) (s : State) : Outcome State Fault Refusal :=
  slotRun s g fun c =>
    let ctl := c.ra ac
    let off := c.ra ax
    let r := c.lm.read off.toNat 32
    let o : Op := { c.blankOp .cpy2 (c.ra ad) (c.ra src) ctl with
      aux := off, recd := r, total := opTotal .cpy2 (c.ra ad) ctl r }
    c.recIssue 6 0 [(off.toNat, 32)]
      (c.copyChecks o (wordOf (.cpy2 g ad src ac ax)) ++
        [c.recCheck off 32 32, orFault (cpy2Ok r) Code.cpy2Rec off.toNat])
      o

/-- CPYT (R247): global memory to TS. -/
def execCpyt (g : Guard) (ad src ac : BitVec 5) (s : State) : Outcome State Fault Refusal :=
  slotRun s g fun c =>
    c.copyIssue 6 0 (wordOf (.cpyt g ad src ac)) (c.blankOp .cpyt (c.ra ad) (c.ra src) (c.ra ac))

/-- CPYLT (R247): own LM to TS. -/
def execCpylt (g : Guard) (ad src ac : BitVec 5) (s : State) : Outcome State Fault Refusal :=
  slotRun s g fun c =>
    c.copyIssue 6 0 (wordOf (.cpylt g ad src ac)) (c.blankOp .cpylt (c.ra ad) (c.ra src) (c.ra ac))

/-- CPYA (R247): AS to global memory or own LM. -/
def execCpya (g : Guard) (ad src ac : BitVec 5) (s : State) : Outcome State Fault Refusal :=
  slotRun s g fun c =>
    c.copyIssue 6 0 (wordOf (.cpya g ad src ac)) (c.blankOp .cpya (c.ra ad) (c.ra src) (c.ra ac))

/-- CPYZ (Table 10.4): zero bytes. DESIGN CHOICE (assumption 134): it has no source operand, and SRC of its resume record is 0. -/
def execCpyz (g : Guard) (ad ac : BitVec 5) (s : State) : Outcome State Fault Refusal :=
  slotRun s g fun c =>
    c.copyIssue 6 0 (wordOf (.cpyz g ad ac)) (c.blankOp .cpyz (c.ra ad) 0 (c.ra ac))

/-- CPYG (R248): elements gathered from global memory into own LM. -/
def execCpyg (g : Guard) (ad src ac ax : BitVec 5) (s : State) : Outcome State Fault Refusal :=
  slotRun s g fun c =>
    c.copyIssue 6 0 (wordOf (.cpyg g ad src ac ax)) { c.blankOp .cpyg (c.ra ad) (c.ra src) (c.ra ac) with aux := c.ra ax }

/-- True for a cut operation that a record of CPYR matches (R340). -/
def Op.cutMatches (o n : Op) : Bool :=
  o.cut.isSome && o.kind = n.kind && o.dst = n.dst && o.src = n.src && o.ctl = n.ctl && o.aux = n.aux &&
    o.next = n.next

/-- A CPYR whose record is admitted: it takes over the cut operation that it matches, with one mark less, else it is
a new operation (R340). DESIGN CHOICE (assumption 143): of several cut operations that match, the first issued is taken over.
Against the context's own M instructions it keeps the order of its first issue: R254 counts it as issued
in CPYR's bundle under R90, R91, R93 and R100 alone (DEDUCED, assumption 34). -/
def Ctx.resume (c : Ctx) (o : Op) : Ctx :=
  match c.ops.find? fun x => x.cutMatches o with
  | some x =>
    if c.acqPending then c.hold
    else
      let took := { c with ops := c.ops.map fun (y : Op) =>
        if y.e = x.e then { o with e := x.e, origin := x.origin, behind := x.behind } else y }
      took.semMark (ctlSem x.ctl) (fun m => m - 1)
  | none => c.opIssue 6 (if (opcOf o.kind).map Prod.fst = some 7 then 32 else 0) [] o

/-- A release LATOM still holds back an L-slot store to the record of a CPYR, or to the list that it names (R90, R241). -/
def Ctx.recHeld (c : Ctx) (o : Op) (off : Nat) : Bool :=
  c.latomMeets c.issued off 128 || (o.kind == .mcast && c.latomMeets c.issued o.aux.toNat o.recd.length)

/-- CPYR (R254, R340): the record at LM a(ar), aligned to 128. DESIGN CHOICE (assumption 23): what the record names is checked
as at the first issue. -/
def execCpyr (g : Guard) (ar : BitVec 5) (s : State) : Outcome State Fault Refusal :=
  slotRun s g fun c =>
    let off := c.ra ar
    match c.recCheck off 128 128 with
    | some (code, d) => c.raise code 6 d
    | none =>
      match c.opOfRecord (c.lm.read off.toNat 128) with
      | none => c.raise Code.rrecBad 6 off.toNat
      | some o =>
        match firstFault (orFault (decide (ctlSem o.ctl < c.sems.length)) Code.semRange (ctlSem o.ctl) ::
            c.operandChecks o (wordOf (.cpyr g ar))) with
        | some (code, d) => c.raise code 6 d
        | none => if c.recHeld o off.toNat then c.hold else c.resume o

/-- The operands of an atomic: v and the value that a cas expects (R249). -/
def Ctx.atomOperands (c : Ctx) (op : AtomOp) (sv : BitVec 6) : Word × Word :=
  if op = .cas then (c.rs (sv + 1), c.rs sv) else (c.rs sv, 0)

/-- ATOM (R249). -/
def execAtom (g : Guard) (t : AtomTy) (op : AtomOp) (aa ac : BitVec 5) (sv : BitVec 6) (ord : Ord) (s : State) :
    Outcome State Fault Refusal :=
  slotRun s g fun c =>
    let ctl := c.ra ac
    let n := atomBytes t
    c.opIssue 6 0
      (c.ctlCheck ctl 0b100 (retLenBits ctl) (wordOf (.atom g t op aa ac sv ord)) ++
        [canonCheck (c.ra aa) 0, alignCheck (c.ra aa) n, c.retCheck ctl n])
      { c.blankOp .atom (c.ra aa) 0 ctl with
        ty := t, aop := op, ord := ord, val := (c.atomOperands op sv).1, expd := (c.atomOperands op sv).2 }

/-- ATOM.f32.fadd (R250); refused in DET mode (R53). -/
def execAtomFadd (g : Guard) (aa ac : BitVec 5) (sv : BitVec 6) (s : State) : Outcome State Fault Refusal :=
  slotRun s g fun c =>
    let ctl := c.ra ac
    let w := wordOf (.atomFadd g aa ac sv)
    c.opIssue 6 0
      (orFault (!c.det) Code.detFadd w :: c.ctlCheck ctl 0b100 (retLenBits ctl) w ++
        [canonCheck (c.ra aa) 0, alignCheck (c.ra aa) 4, c.retCheck ctl 4])
      { c.blankOp .fadd (c.ra aa) 0 ctl with ty := .z32, val := c.rs sv }

/-- ATOMX (R251): LEN[4:0] words; a LEN outside 1 to 16 or a reserved byte of the record raises ATOMX_REC. Words of CODE at and
beyond LEN are not read (Table 10.6). -/
def execAtomx (g : Guard) (aa ar ac : BitVec 5) (s : State) : Outcome State Fault Refusal :=
  slotRun s g fun c =>
    let ctl := c.ra ac
    let off := c.ra ar
    let len := min 16 (ctlLen ctl)
    let r := c.atomxRecord off.toNat len
    c.recIssue 6 0 (atomxReads off.toNat len)
      (c.ctlCheck ctl 0 5 (wordOf (.atomx g aa ar ac)) ++
        [canonCheck (c.ra aa) 0, alignCheck (c.ra aa) 64] ++ c.atomxCheck off len ++
        [orFault (decide (1 ≤ ctlLen ctl) && decide (ctlLen ctl ≤ 16) && recField r 96 32 == 0) Code.atomxRec off.toNat])
      { c.blankOp .atomx (c.ra aa) off ctl with recd := r }

end Sys2Proof.Machine
end

