-- ==== Sys2Proof/Machine/Remote.lean ====
section
/-! DEFINITION. The N slot (R255 to R259): operations of the remote copy engine at issue. -/
namespace Sys2Proof.Machine
open Host

/-- RST (R256). -/
def execRst (g : Guard) (ad src ac : BitVec 5) (s : State) : Outcome State Fault Refusal :=
  slotRun s g fun c =>
    c.copyIssue 7 32 (wordOf (.rst g ad src ac)) (c.blankOp .rst (c.ra ad) (c.ra src) (c.ra ac))

/-- RSTS (R256): the value is taken at issue; LEN 1, 2, 4 or 8, OFF naturally aligned. -/
def execRsts (g : Guard) (ar : BitVec 5) (sv : BitVec 6) (ac : BitVec 5) (s : State) : Outcome State Fault Refusal :=
  slotRun s g fun c =>
    let ctl := c.ra ac
    let w := wordOf (.rsts g ar sv ac)
    let n := ctlLen ctl
    c.opIssue 7 32
      (c.ctlCheck ctl 0 40 w ++
        [orFault (n == 1 || n == 2 || n == 4 || n == 8) Code.resOpnd w, peerCheck (c.ra ar) false w,
         orFault (rlOff (c.ra ar).toNat % n == 0) Code.misalign (rlOff (c.ra ar).toNat)])
      { c.blankOp .rsts (c.ra ar) 0 ctl with val := c.rs sv }

/-- RCPY (R256): own LM or global memory, to peer LM or global memory. -/
def execRcpy (g : Guard) (ad src ac : BitVec 5) (s : State) : Outcome State Fault Refusal :=
  slotRun s g fun c =>
    c.copyIssue 7 32 (wordOf (.rcpy g ad src ac)) (c.blankOp .rcpy (c.ra ad) (c.ra src) (c.ra ac))

/-- RGET (R256). -/
def execRget (g : Guard) (ad src ac : BitVec 5) (s : State) : Outcome State Fault Refusal :=
  slotRun s g fun c =>
    c.copyIssue 7 32 (wordOf (.rget g ad src ac)) (c.blankOp .rget (c.ra ad) (c.ra src) (c.ra ac))

/-- RSIG (R257): no control operand and no completion increment; INC 8 bits, or 28 widened. -/
def execRsig (g : Guard) (ar : BitVec 5) (inc : BitVec 8) (sc : Scope) (rel : Bool) (s : State) :
    Outcome State Fault Refusal :=
  slotRun s g fun c =>
    c.opIssue 7 32 [peerCheck (c.ra ar) true (wordOf (.rsig g ar inc sc rel))]
      { c.blankOp .rsig (c.ra ar) 0 0 with
        val := BitVec.ofNat 64 (immU (c.lentTo 7) 8 inc), ord := if rel then .rel sc else .relaxed }

/-- MCAST (R259): the list of n = a(ad)[6:0] remote LM addresses is read at issue. -/
def execMcast (g : Guard) (ad src ac ax : BitVec 5) (s : State) : Outcome State Fault Refusal :=
  slotRun s g fun c =>
    let ctl := c.ra ac
    let list := c.lm.read (c.ra ax).toNat (8 * bitsOf (c.ra ad).toNat 0 7)
    let o : Op := { c.blankOp .mcast (c.ra ad) (c.ra src) ctl with
      aux := c.ra ax, recd := list, total := opTotal .mcast (c.ra ad) ctl list }
    c.recIssue 7 32 [((c.ra ax).toNat, list.length)] (c.copyChecks o (wordOf (.mcast g ad src ac ax))) o

/-- RATOM (R258). -/
def execRatom (g : Guard) (t : AtomTy) (op : AtomOp) (aa ac : BitVec 5) (sv : BitVec 6) (ord : Ord) (s : State) :
    Outcome State Fault Refusal :=
  slotRun s g fun c =>
    let ctl := c.ra ac
    let w := wordOf (.ratom g t op aa ac sv ord)
    let n := atomBytes t
    c.opIssue 7 32
      (c.ctlCheck ctl 0b100 (retLenBits ctl) w ++
        [peerCheck (c.ra aa) false w, orFault (rlOff (c.ra aa).toNat % n == 0) Code.misalign (rlOff (c.ra aa).toNat),
         c.retCheck ctl n])
      { c.blankOp .ratom (c.ra aa) 0 ctl with
        ty := t, aop := op, ord := ord, val := (c.atomOperands op sv).1, expd := (c.atomOperands op sv).2 }

end Sys2Proof.Machine
end

