-- ==== Sys2Proof/Machine/Bundle.lean ====
section
/-! DEFINITION. Contexts at entry (R39), the fetch of a bundle and the faults that its words alone raise (R132, R135,
R138, R139). -/
namespace Sys2Proof.Machine

/-! ### A context at entry (Table 2.5) -/

/-- Nothing of a bundle is at work. -/
def Issue.idle : Issue := ⟨none, .no, false, none, none⟩

/-- MODE at entry (R36): the flags of the launch, ARITH and INDET zero. -/
def modeAtEntry (det express restart preempt : Bool) : Word :=
  BitVec.ofNat 64 (det.toNat + 4 * express.toNat + 8 * restart.toNat + 16 * preempt.toNat)

/-- A context in ALLOC with the state of Table 2.5: args are s0 to s15, pc the entry bundle. -/
def Ctx.entry (key : CtxKey) (site : Nat) (info : LaunchInfo) (part : Part) (mode : Word) (pc : Word32)
    (srkey : Word) (args : List Word) : Ctx where
  key := key
  site := site
  status := .alloc
  info := info
  part := part
  pc := pc
  xfer := none
  aside := none
  loops := []
  repm := none
  s := Vector.ofFn fun i => if i.val < 16 then args.getD i.val 0 else 0
  a := Vector.replicate 32 0
  va := Vector.replicate 32 0
  vb := Vector.replicate 32 0
  p := Vector.replicate 24 (BitVec.allOnes 256)
  f := Vector.ofFn fun i => i.val == 0
  b := Vector.replicate 8 0
  ft := Vector.replicate 8 ⟨none, .tile⟩
  ma := Vector.replicate 16 0
  ch := Vector.replicate 8 Chain.void
  mcfg := 0
  tabA := Vector.replicate 16 0x3F80_0000
  tabB := Vector.replicate 16 0x3F80_0000
  mode := mode
  events := 0
  evmask := 0x1F
  fault := 0
  srkey := srkey
  clock := 0
  replays := 0
  grant := Grant.zero
  lm := []
  ts := []
  as := []
  istore := []
  sems := List.replicate (part.sem * 32) ⟨0, 0⟩
  poisonLm := []
  poisonTs := []
  poisonAs := []
  poisonSem := []
  poisonIs := []
  issued := 0
  inflight := []
  issue := Issue.idle
  trapPc := 0
  tretVal := none
  sys := none
  mq := []
  mmagStep := 0
  mmagOut := []
  mmagIn := []
  ops := []
  rels := []
  latom := none
  failed := none
  fatal := none
  trapCode := 0
  yielded := false

/-! ### The words of a bundle -/

/-- The eight slot words of the context's next bundle, slot index order (Table 6.1). -/
def Ctx.words (c : Ctx) : List Word32 := bundleWords (c.istore.read c.pc.toNat 32)

/-- Slot sl of a bundle's words. -/
def slotOf (ws : List Word32) (sl : Nat) : Word32 := ws.getD sl 0

/-- The lent bits of an XIM word, with its target slot. -/
def ximOf (w : Word32) : Option (Nat × BitVec 20) :=
  if opOf w = 0x01 then some ((fld w 20 3).toNat, fld w 0 20) else none

/-! ### Registers that a word writes, whatever its other fields hold (R135) -/

/-- The s register named by bits [19:14]. -/
def dS (w : Word32) : Dest := .s (fld w 14 6).toNat
/-- The a register named by bits [19:15]. -/
def dA (w : Word32) : Dest := .a (fld w 15 5).toNat
/-- The p register named by bits [19:15]. -/
def dP (w : Word32) : Dest := .p (fld w 15 5).toNat
/-- The flag named by bits [19:17]. -/
def dF (w : Word32) : Dest := .f (fld w 17 3).toNat
/-- The vector register named by F [19] and bits [18:14]. -/
def dFv (w : Word32) : Dest := .v (VFile.ofBit (w.getLsbD 19)) (fld w 14 5).toNat

/-- Registers that an S word writes (Table 6.8). -/
def writesS (w : Word32) : List Dest :=
  let op := opOf w
  if op = 0x33 then [.s (fld w 15 5).toNat]
  else if op = 0x20 || op = 0x21 || op = 0x22 || op = 0x36 then [dF w]
  else if op = 0x38 then [dA w]
  else if op = 0x3A then [dFv w]
  else if op = 0x00 || op = 0x3C then []
  else [dS w]

/-- Registers that a VA or VB word writes (Table 6.9). -/
def writesV (u : VFile) (w : Word32) : List Dest :=
  let op := opOf w
  if op = 0x00 then []
  else if op / 8 = 0x58 / 8 || op / 8 = 0xC0 / 8 || op = 0xF8 || op = 0xF9 then [dP w]
  else if op / 8 = 0x78 / 8 then [dS w]
  else if op = 0xFA || op = 0xFB then [dF w]
  else if op = 0xD8 then [.v u (fld w 15 5).toNat, .p (fld w 0 5).toNat]
  else [.v u (fld w 15 5).toNat]

/-- Registers that an L word writes (Table 6.11). -/
def writesL (w : Word32) : List Dest :=
  let op := opOf w
  if op = 0x01 || op = 0x03 || op = 0x05 || op / 8 = 0x10 / 8 then [dFv w]
  else if op = 0x06 then [dP w]
  else if op = 0x08 || op = 0x09 || op = 0x0A || op = 0x0B then [dA w]
  else if op / 8 = 0x20 / 8 || (decide (0x40 ≤ op) && decide (op < 0x60)) then [dS w]
  else []

/-- Registers that the word of slot sl writes; the files of B and M are written by one slot alone. DESIGN CHOICE (assumption
91): a SYS, whose reply lands in s62 later, does not write s62 here. -/
def writesOf (sl : Nat) (w : Word32) : List Dest :=
  match sl with
  | 1 => writesS w
  | 2 => writesV .va w
  | 3 => writesV .vb w
  | 5 => writesL w
  | _ => []

/-- The file that a cross-file copy writes (R133): 0 s, 1 a, 2 va, 3 vb. -/
def crossFile (sl : Nat) (w : Word32) : Option Nat :=
  let op := opOf w
  match sl with
  | 1 => if op = 0x38 then some 1 else if op = 0x39 then some 0
    else if op = 0x3A then some (if w.getLsbD 19 then 3 else 2) else none
  | 2 => if op = 0x07 then some 2 else if op / 8 = 0x78 / 8 then some 0 else none
  | 3 => if op = 0x07 then some 3 else if op / 8 = 0x78 / 8 then some 0 else none
  | _ => none

/-- The word is a VCVT with rounding SR. -/
def isSrCvt (sl : Nat) (w : Word32) : Bool :=
  (sl == 2 || sl == 3) && opOf w / 8 == 0xE0 / 8 && (fld w 5 2).toNat == 2

/-- The word of slot sl has a widenable immediate, or takes lent bits (R132, Tables 6.7 to 6.13). -/
def widenable (sl : Nat) (w : Word32) : Bool :=
  let op := opOf w
  match sl with
  | 1 => (decide (0x18 ≤ op) && decide (op ≤ 0x1B)) || op == 0x21 || op == 0x24 || op == 0x25
  | 2 | 3 => op == 0x06 || op / 8 == 0x60 / 8 || isSrCvt sl w
  | 4 => op == 0x08 || op == 0x09
  | 5 => op == 0x01 || op == 0x02 || op == 0x05 || op == 0x06 || op == 0x07 || op == 0x09 || op == 0x0A ||
      op == 0x0B || op == 0x0C || (decide (0x20 ≤ op) && decide (op ≤ 0x2F))
  | 7 => op == 0x05
  | _ => false

/-! ### Illegal bundles (R132, R135) -/

/-- Slots i < j of a bundle. -/
def slotPairs : List (Nat × Nat) := (List.range 8).flatMap fun i => ((List.range 8).filter fun j => decide (i < j)).map (i, ·)

/-- Item 1: two instructions write one register; the lower slot. DESIGN CHOICE (assumption 90): a destination that does not exist
or may not be written (p24 to p31, f0) counts as a register here, so ILL_BUNDLE comes before the fault of that field. -/
def sameReg (ws : List Word32) : Option (Nat × Nat) :=
  match slotPairs.find? fun p => (writesOf p.1 (slotOf ws p.1)).any fun d => (writesOf p.2 (slotOf ws p.2)).contains d with
  | some p => some (p.1, 1)
  | none => none

/-- Item 2: two cross-file copies write one file; the lower slot. -/
def sameFile (ws : List Word32) : Option (Nat × Nat) :=
  match slotPairs.find? fun p =>
    (crossFile p.1 (slotOf ws p.1)).isSome && crossFile p.1 (slotOf ws p.1) == crossFile p.2 (slotOf ws p.2) with
  | some p => some (p.1, 2)
  | none => none

/-- Item 4: an XIM whose target cannot take lent bits, at slot 0; a VCVT with SR to which no XIM lends, at its slot. -/
def badXim (ws : List Word32) : Option (Nat × Nat) :=
  let x := ximOf (slotOf ws 0)
  let lends := fun sl => match x with
    | some (t, _) => t == sl
    | none => false
  match x with
  | some (t, _) =>
    if t = 0 || !widenable t (slotOf ws t) then some (0, 4)
    else ([2, 3].find? fun sl => isSrCvt sl (slotOf ws sl) && !lends sl).map fun sl => (sl, 4)
  | none => ([2, 3].find? fun sl => isSrCvt sl (slotOf ws sl)).map fun sl => (sl, 4)

/-- The lower slot of two illegalities; on one slot the earlier item, since the spec gives DETAIL as one item of R135 (DESIGN
CHOICE, assumption 106). -/
def lowerOf : Option (Nat × Nat) → Option (Nat × Nat) → Option (Nat × Nat)
  | none, b => b
  | a, none => a
  | some a, some b => if b.1 < a.1 then some b else some a

/-- The reported slot and item of an illegal bundle (R139), or none. -/
def illegal (ws : List Word32) : Option (Nat × Nat) := lowerOf (sameReg ws) (lowerOf (sameFile ws) (badXim ws))

/-! ### Decode faults and their precedence (R138, R139) -/

/-- The decode of each slot's word, slot index order. -/
def decodeBundle (ws : List Word32) : List Decoded := allSlots.zipIdx.map fun p => decodeSlot p.1 (slotOf ws p.2)

/-- The lowest slot whose decode raises a flaw. -/
def flawAt (ds : List Decoded) (f : Flaw) : Option Nat :=
  ds.findIdx? fun d => match d with
    | .error g => g == f
    | .ok _ => false

/-- A VCVT with SR whose lent bits [14:0] are not zero (R206); its slot. -/
def badLent (ws : List Word32) : Option Nat :=
  match ximOf (slotOf ws 0) with
  | some (t, v) => if isSrCvt t (slotOf ws t) && v.extractLsb' 0 15 != 0 then some t else none
  | none => none

/-- The lower of two slots. -/
def lowerSlot : Option Nat → Option Nat → Option Nat
  | none, b => b
  | a, none => a
  | some a, some b => some (min a b)

/-- The fault that fetch and decode raise: code, slot and DETAIL, in the order of R139. DESIGN CHOICE (assumption 118): POISON of a
fetch comes behind FETCH_RANGE and before ILL_INSN. -/
def Ctx.fetchFault (c : Ctx) : Option (Nat × Nat × Nat) :=
  let pc := c.pc.toNat
  if c.isSize < pc + 32 then some (Code.fetchRange, 0, pc)
  else if poisonHit c.poisonIs 8 pc 32 then
    some (Code.poison, 0, poisonDetail 3 ((c.poisonIs.find? fun w => poisonHit [w] 8 pc 32).getD 0))
  else
    let ws := c.words
    let ds := decodeBundle ws
    match flawAt ds .illInsn with
    | some sl => some (Code.illInsn, sl, (slotOf ws sl).toNat)
    | none =>
      match illegal ws with
      | some (sl, item) => some (Code.illBundle, sl, item)
      | none =>
        match lowerSlot (flawAt ds .resOpnd) (badLent ws) with
        | some sl => some (Code.resOpnd, sl, (slotOf ws sl).toNat)
        | none => none

/-- The instruction of slot sl of the context's next bundle; a NOP where decode refuses the word. -/
def Ctx.insn (c : Ctx) (sl : Slot) : Instr :=
  match decodeSlot sl (slotOf c.words sl.index) with
  | .ok i => i
  | .error _ => .nop

/-- True when the word of the slot is not a NOP (R281). -/
def occupied (ws : List Word32) (sl : Nat) : Bool := slotOf ws sl != 0

end Sys2Proof.Machine
end

