-- ==== Sys2Proof/Machine/Home.lean ====
section
/-! DEFINITION. Homes: HBM with its ECC words, its channels and what lies beyond reach (R67, R81, R343, R372), the routes
between dies (R19, R366 to R368), the doorbells and queue controls that a write touches (R263, R264), save images (R353,
R354), the storage of contexts, and events (R165). -/
namespace Sys2Proof.Machine

/-! ### Physical addresses (R67) -/

/-- Bytes of HBM. -/
def hbmSize : Nat := 0xC0_0000_0000

/-- The die that owns a physical address. -/
def paDie (pa : Nat) : Nat := pa / 0x30_0000_0000

/-- The package channel of a physical address. -/
def paChan (pa : Nat) : Nat := 96 * paDie pa + pa % 0x30_0000_0000 / 1024 % 96

/-- A channel. -/
def State.chan (s : State) (ch : Nat) : Chan := s.chans.getD ch ⟨0, 0, true, Arb.reset⟩

/-- Changes a channel. -/
def State.modChan (s : State) (ch : Nat) (f : Chan → Chan) : State := { s with chans := modAt s.chans ch f }

/-- Storage within reach: the die is in service and the channel is not lost (R372). -/
def State.reaches (s : State) (pa : Nat) : Bool :=
  decide (pa < hbmSize) && (s.die (paDie pa)).inService && !(s.chan (paChan pa)).lost

/-- Every granule that n bytes at pa touch is within reach. -/
def State.reachesAll (s : State) (pa n : Nat) : Bool :=
  (List.range ((pa % 64 + n + 63) / 64)).all fun i => s.reaches (pa / 64 * 64 + 64 * i)

/-- Storage from pa on, n bytes, within reach: of its first and its last 96 KiB, which touch every channel of a die. -/
def State.spanReaches (s : State) (pa n : Nat) : Bool :=
  (List.range (min ((n + 1023) / 1024) 97)).all fun i => s.reaches (pa + 1024 * i) && s.reaches (pa + n - 1 - 1024 * i)

/-- Sites in service (R14). -/
def State.siteInService (s : State) (i : Nat) : Bool := (s.die (i / 64)).inService && !(s.site i).fenced

/-- The logical capacity (R14). -/
def State.capacity (s : State) : Nat := ((List.range 256).filter fun i => s.siteInService i).length

/-! ### Routes between dies (R19, R366 to R368) -/

/-- The edges of a path from die a of so many steps: edge and whether clockwise. -/
def cwPath : Nat → Nat → List (Nat × Bool)
  | _, 0 => []
  | a, n + 1 => (a % 4, true) :: cwPath ((a + 1) % 4) n

/-- As cwPath, the other way round. -/
def ccwPath : Nat → Nat → List (Nat × Bool)
  | _, 0 => []
  | a, n + 1 => ((a + 3) % 4, false) :: ccwPath ((a + 3) % 4) n

/-- The fixed route of R19: a diagonal goes through Q1 or Q2. -/
def ringPath (a b : Nat) : List (Nat × Bool) :=
  let d := (b + 4 - a) % 4
  if d = 3 || (d = 2 && decide (b < a)) then ccwPath a (4 - d) else cwPath a d

/-- An edge. -/
def State.edge (s : State) (e : Nat) : Edge := s.edges.getD e ⟨2, 0, 0, 0, 0, 0, true, false, Arb.reset, Arb.reset⟩

/-- Changes an edge. -/
def State.modEdge (s : State) (e : Nat) (f : Edge → Edge) : State := { s with edges := modAt s.edges e f }

/-- A path with no edge down. -/
def State.pathUp (s : State) (p : List (Nat × Bool)) : Bool := p.all fun e => (s.edge e.1).st != 2

/-- The route between two dies: that of R19, or the path of the chain once an edge of it is down (R367). -/
def State.path (s : State) (a b : Nat) : Option (List (Nat × Bool)) :=
  let p := ringPath a b
  if s.pathUp p then some p
  else
    let q := if p.any Prod.snd then ccwPath a ((a + 4 - b) % 4) else cwPath a ((b + 4 - a) % 4)
    if s.pathUp q then some q else none

/-- A new route between two dies has been resynchronised (R368). -/
def State.pathSynced (s : State) (a b : Nat) : Bool :=
  (ringPath a b).all fun e => (s.edge e.1).st != 2 || (s.edge e.1).synced

/-- The route carries requests now: no edge of it retrains (R366), and a new route has been resynchronised (R368). -/
def State.pathOpen (s : State) (a b : Nat) : Bool :=
  match s.path a b with
  | some p => p.all (fun e => (s.edge e.1).st = 0) && s.pathSynced a b
  | none => false

/-- A die's agents may reach n bytes at pa now: the way to each die that holds some of them carries requests, if that die is in
service (R19, R366, R368). -/
def State.opens (s : State) (d pa n : Nat) : Bool :=
  [pa, pa + n - 1].all fun a => !(s.die (paDie a)).inService || s.pathOpen d (paDie a)

/-! ### The queue tables (R261 to R264) -/

/-- The PA of a queue's descriptor; none while its die's QTBASE has not been written. -/
def State.descriptor (s : State) (q : Nat) : Option Nat :=
  let d := s.die (q / 32768)
  if d.qtSet then some (bitsOf d.qtbase.toNat 21 19 * 2 ^ 21 + 64 * (q % 32768)) else none

/-- The queues of die d whose descriptors n bytes at pa touch. -/
def State.touched (s : State) (d pa n : Nat) : List Nat :=
  match s.descriptor (d * 32768) with
  | some b =>
    let lo := (max pa b - b) / 64
    let hi := (min (pa + n) (b + 2 ^ 21) - b + 63) / 64
    if pa + n ≤ b || b + 2 ^ 21 ≤ pa then [] else (List.range (hi - lo)).map fun i => d * 32768 + lo + i
  | none => []

/-- Notes what a write of n bytes at pa means to the distributors: a doorbell where it touches a TAIL word, and a change
of EN where it changes a CTL word, with CTL, RING, TAIL and the reserved bytes as they then stand. old is HBM before the write. -/
def State.noteWrite (s : State) (old : Memory) (pa n : Nat) : State :=
  let qs := (List.range 4).flatMap fun d => s.touched d pa n
  let bell := fun q => match s.descriptor q with
    | some b => meets pa n (b + 16) 8
    | none => false
  let en := fun (m : Memory) q => match s.descriptor q with
    | some b => (m.byte b).getLsbD 0
    | none => false
  { s with
    bells := s.bells ++ qs.filter bell
    ctlEvents := s.ctlEvents ++ ((qs.filter fun q => en old q != en s.hbm q).filterMap fun q =>
      (s.descriptor q).map fun b =>
        ⟨q, en s.hbm q, s.hbm.num b 8, s.hbm.num (b + 8) 8, s.hbm.num (b + 16) 8, s.hbm.num (b + 40) 24⟩) }

/-! ### HBM (R81, R343) -/

/-- Bytes and poison marks at a physical address; storage beyond reach reads as poisoned (R372). -/
def State.hbmRead (s : State) (pa n : Nat) : List Marked :=
  List.zip (s.hbm.read pa n) (tabulate n fun i => !s.reaches (pa + i) || s.hbmPoison.contains ((pa + i) / 32))

/-- Writes bytes with their marks, with no effect on a distributor. -/
def State.hbmSet (s : State) (pa : Nat) (data : List Marked) : State :=
  { s with
    hbm := s.hbm.write pa (data.map Prod.fst)
    hbmPoison := poisonWrite s.hbmPoison 32 pa (data.map Prod.snd) }

/-- A write performed at its home. -/
def State.hbmWrite (s : State) (pa : Nat) (data : List Marked) : State :=
  (s.hbmSet pa data).noteWrite s.hbm pa data.length

/-- Clean bytes. -/
def clean (bs : List Byte) : List Marked := bs.map fun b => (b, false)

/-- A little-endian number of n bytes at pa. -/
def State.hbmNum (s : State) (pa n : Nat) : Nat := s.hbm.num pa n

/-! ### Save images of SAVED contexts (R48, R354) -/

/-- The PA of a context's save image. -/
def State.imageOf (s : State) (k : CtxKey) : Option Nat :=
  match s.tract k.tract with
  | some t => (t.images.find? fun p => p.1 = k.rank).map Prod.snd
  | none => none

/-- Offsets of the partitions of an image (Table 16.9). -/
def imgLm : Nat := 0x8000
def Ctx.imgTs (c : Ctx) : Nat := imgLm + c.lmSize
def Ctx.imgAs (c : Ctx) : Nat := c.imgTs + c.tsSize

/-! ### Storage of contexts -/

/-- Marks of 8-byte words over n bytes. -/
def markedRead (m : Memory) (p : List Nat) (off n : Nat) : List Marked := List.zip (m.read off n) (poisonRead p 8 off n)

/-- Bytes of a context's LM, in its save image while it is SAVED (R48). -/
def State.lmRead (s : State) (k : CtxKey) (off n : Nat) : List Marked :=
  match s.ctx k with
  | some c =>
    if c.status = .saved then
      match s.imageOf k with
      | some b => s.hbmRead (b + imgLm + off) n
      | none => []
    else markedRead c.lm c.poisonLm off n
  | none => []

/-- Writes bytes to a context's LM by an engine or a peer. -/
def Ctx.lmPut (c : Ctx) (off : Nat) (data : List Marked) : Ctx :=
  { c with lm := c.lm.write off (data.map Prod.fst), poisonLm := poisonWrite c.poisonLm 8 off (data.map Prod.snd) }

/-- A load has read a byte of [off, off + n). -/
def LoadSrc.hit (x : LoadSrc) (off n : Nat) : Bool := x.offs.any fun o => meets off n o x.n

/-- The unit to which byte i of what a load reads belongs: at most 8 bytes (R84). -/
def LoadSrc.unit (x : LoadSrc) (i : Nat) : Nat := i / min 8 x.n

/-- The LM offset of byte i of what a load reads. -/
def LoadSrc.at (x : LoadSrc) (i : Nat) : Nat := x.offs.getD (i / x.n) 0 + i % x.n

/-- The units of a load that n bytes written at off meet. -/
def LoadSrc.met (x : LoadSrc) (off n u : Nat) : Bool :=
  (List.range x.bytes.length).any fun i => x.unit i == u && decide (off ≤ x.at i) && decide (x.at i < off + n)

/-- The units of a load whose read has been performed once bytes have been written at off: of those that the write meets, the
units that f does not let go on. -/
def LoadSrc.doneAfter (x : LoadSrc) (off n : Nat) (f : Nat → Bool) : List Bool :=
  x.done.zipIdx.map fun p => p.1 || (x.met off n p.2 && !f p.2)

/-- A load when bytes are written at off before it lands: a unit whose read has been performed keeps what it has read, and
every other takes all the new bytes that it meets (R84, R91); f says which are still to be read. -/
def LoadSrc.race (x : LoadSrc) (off : Nat) (bs : List Byte) (f : Nat → Bool) : LoadSrc :=
  let done := x.doneAfter off bs.length f
  { x with
    done := done
    bytes := x.bytes.zipIdx.map fun p =>
      if decide (off ≤ x.at p.2) && decide (x.at p.2 < off + bs.length) && !done.getD (x.unit p.2) true then
        bs.getD (x.at p.2 - off) 0
      else p.1 }

/-- True when a load in flight has read a byte of [off, off + n). -/
def Ctx.racing (c : Ctx) (off n : Nat) : Bool := c.inflight.any fun e => e.load.any fun x => x.hit off n

/-- No byte of unit u of a load lies in a word that bad names. -/
def LoadSrc.unitClean (x : LoadSrc) (bad : List Nat) (u : Nat) : Bool :=
  (List.range x.bytes.length).all fun i => x.unit i != u || !bad.contains (x.at i / 8)

/-- A result in flight when bytes are written at off; n numbers the free values. settled says that a later load has been
performed in part, or that this one should have landed (R7), so that this one is performed (R89, R91). A unit that would take
bytes of a word which the write leaves poisoned, as bad says, keeps what it has read: no load takes poison unseen (R345). -/
def InFlight.race (e : InFlight) (off : Nat) (bs : List Byte) (n : Nat) (settled : Bool) (bad : List Nat) : InFlight :=
  match e.load with
  | some x =>
    let y := if settled then x.settle else x
    if y.hit off bs.length then
      let z := y.race off bs fun u => Config.loadRace (n + u) && y.unitClean bad u
      { e with load := some z, val := z.value }
    else { e with load := some y }
  | none => e

/-- A load whose read has been performed in part at least. -/
def InFlight.begun (e : InFlight) : Bool := e.load.any fun x => x.done.any id

/-- A load whose own bound has passed when so many bundles have issued: it has landed, as far as its read goes (R7, R91). -/
def InFlight.overdue (e : InFlight) (issued : Nat) : Bool := e.load.any fun x => decide (x.bound ≤ issued)

/-- The results in flight, the newest first, when bytes are written at off and so many bundles have issued. -/
def raceAll (off : Nat) (bs : List Byte) (bad : List Nat) (issued : Nat) : List InFlight → Nat → Bool → List InFlight
  | [], _, _ => []
  | e :: es, n, settled =>
    let x := e.race off bs n (settled || e.overdue issued) bad
    x :: raceAll off bs bad issued es (n + 64) (settled || x.begun)

/-- The loads in flight when bytes are written at off, with their marks; n numbers the free values. -/
def Ctx.race (c : Ctx) (off : Nat) (data : List Marked) (n : Nat) : Ctx :=
  let bad := poisonWrite c.poisonLm 8 off (data.map Prod.snd)
  { c with inflight := (raceAll off (data.map Prod.fst) bad c.issued c.inflight.reverse n false).reverse }

/-- Writes bytes to a context's LM by an engine or a peer: to the save image of a SAVED context, else under the loads in
flight (R91). -/
def State.lmPut (s : State) (k : CtxKey) (off : Nat) (data : List Marked) : State :=
  match s.ctx k with
  | some c =>
    if c.status = .saved then
      match s.imageOf k with
      | some b => s.hbmSet (b + imgLm + off) data
      | none => s
    else if c.racing off data.length then
      { s.modCtx k (fun c => (c.race off data s.fresh).lmPut off data) with
        fresh := s.fresh + 64 * c.inflight.length }
    else s.modCtx k fun c => c.lmPut off data
  | none => s

/-- Writes bytes of TS (R247). -/
def Ctx.tsPut (c : Ctx) (off : Nat) (data : List Marked) : Ctx :=
  { c with ts := c.ts.write off (data.map Prod.fst), poisonTs := poisonWrite c.poisonTs 8 off (data.map Prod.snd) }

/-- An asynchronous fault: the tract that holds the storage ends (Table 16.1, class 6). -/
def Ctx.asyncFault (c : Ctx) (detail : Nat) : Ctx := c.fatalReport ⟨Code.poison, 6, 0, detail⟩

/-- A context's semaphore is poisoned, in the save image of a SAVED context. -/
def State.semPoisoned (s : State) (c : Ctx) (i : Nat) : Bool :=
  if c.status = .saved then (s.imageOf c.key).any fun b => poisonHit s.hbmPoison 32 (b + 0x5000 + 8 * i) 8
  else c.poisonSem.contains i

/-- sem.add at a context's semaphore unit (R164), in the save image of a SAVED context; a poisoned semaphore ends its
tract (R345). -/
def State.semAddAt (s : State) (k : CtxKey) (i : Nat) (inc : Word32) : State :=
  match s.ctx k with
  | some c =>
    if s.semPoisoned c i then s.modCtx k fun c => c.asyncFault (poisonDetail 4 i)
    else if c.status = .saved then
      match s.imageOf k with
      | some b => s.hbmSet (b + 0x5000 + 8 * i) (clean (leBytes 4 (s.hbmNum (b + 0x5000 + 8 * i) 4 + inc.toNat)))
      | none => s
    else s.modCtx k fun c => c.semAdd i inc
  | none => s

/-! ### Storage of contexts beyond reach (R372) -/

/-- A context's storage lies on a site out of service: on a lost die, or discarded with a fenced site (R363, R372; DESIGN
CHOICE, assumption 83). A SAVED context has none there. -/
def State.ctxLost (s : State) (k : CtxKey) : Bool :=
  (s.ctx k).any fun c => c.status != .saved && !s.siteInService c.site

/-- n bytes from offset o of a context's save image, or its storage on its site, lie beyond reach. -/
def State.imageLost (s : State) (k : CtxKey) (o n : Nat) : Bool :=
  match s.ctx k with
  | some c =>
    if c.status = .saved then (s.imageOf k).any fun b => !s.reachesAll (b + o) n
    else !s.siteInService c.site
  | none => false

/-! ### Events (R165) -/

/-- Bits of EVENTS (Table 7.8). -/
def evRat : Nat := 0
def evSwi : Nat := 1
def evHost : Nat := 2
def evBud : Nat := 3
def evFen : Nat := 4

/-- Sets an event bit, as EVMASK and DET mode admit. -/
def Ctx.event (c : Ctx) (n : Nat) : Ctx :=
  if c.det || !c.evmask.getLsbD n then c else { c with events := setBit c.events n true }

/-- The least-numbered die in service: the leader's (R276). -/
def State.leaderDie (s : State) : Nat := ((List.range 4).find? fun d => (s.die d).inService).getD 4

/-- The die that serves a queue: its own, or the leader's once that is out of service and its queue table within reach
(R374). -/
def State.server (s : State) (q : Nat) : Option Nat :=
  let d := q / 32768
  if (s.die d).inService then some d
  else
    match s.descriptor (d * 32768) with
    | some a => if s.spanReaches a (2 ^ 21) then some s.leaderDie else none
    | none => none

/-- The distributor of a die may write the head of a context's save image now, where the context is SAVED (R19, R366, R368). -/
def State.savedOpens (s : State) (d : Nat) (c : Ctx) : Bool :=
  c.status != .saved || (s.imageOf c.key).all fun b => s.opens d b imgLm

/-- Sets an event bit in the image at b of a SAVED context, as EVMASK and DET mode admit. -/
def State.eventIn (s : State) (n : Nat) (c : Ctx) (b : Nat) : State :=
  if c.det || !(s.hbmNum (b + 0x90) 8).testBit n then s
  else s.hbmSet (b + 0x88) (clean (leBytes 8 (s.hbmNum (b + 0x88) 8 ||| 2 ^ n)))

/-- Sets an event bit of a context. That of a SAVED one goes into its save image, written by the distributor that serves its queue;
while the way there carries no requests it waits in the context (R19; DEDUCED, assumption 130). -/
def State.eventAt (s : State) (n : Nat) (k : CtxKey) : State :=
  match s.ctx k with
  | some c =>
    if c.status = .saved then
      match s.imageOf k with
      | some b =>
        if (s.server c.info.queue).all fun d => s.savedOpens d c then s.eventIn n c b
        else s.modCtx k fun c => { c with events := setBit c.events n true }
      | none => s
    else s.modCtx k fun c => c.event n
  | none => s

/-- The events that wait in SAVED contexts go into their images, where the way there carries requests again. -/
def State.flushEvents (s : State) : State :=
  (s.ctxs.filter fun c => c.status == .saved && c.events != 0).foldl (fun t c =>
    ((List.range 5).filter fun n => c.events.getLsbD n).foldl (fun u n => u.eventAt n c.key)
      (t.modCtx c.key fun x => { x with events := 0 })) s

/-- Sets an event bit of every context that f selects. -/
def State.eventAll (s : State) (n : Nat) (f : Ctx → Bool) : State :=
  (s.ctxs.filter f).foldl (fun t c => t.eventAt n c.key) s

end Sys2Proof.Machine
end

