-- ==== Sys2Proof/Machine/Translate.lean ====
section
/-! DEFINITION. Translation (R64, R68 to R80): the entries of a walk, the structures that cache them, walkers, and
invalidation. -/
namespace Sys2Proof.Machine

/-! ### Entries (R70 to R72) -/

/-- The address of the entry that a walk reads at a level: 0 the address-space table, 1 to 3 the table levels (R70). -/
def entryAddr (base asid va lvl : Nat) : Nat :=
  match lvl with
  | 0 => base + 8 * asid
  | 1 => base + 8 * bitsOf va 44 13
  | 2 => base + 8 * bitsOf va 31 13
  | _ => base + 8 * bitsOf va 16 15

/-- The base of the address-space table (Table 3.5). -/
def State.astRoot (s : State) : Nat := bitsOf s.astbase.toNat 19 21 * 2 ^ 19

/-- PA[39:16] of an entry, as an address. -/
def entryPa (e : Nat) : Nat := bitsOf e 16 24 * 2 ^ 16

/-- What an entry says: where the walk goes on, or how it ends. -/
inductive EntryKind where
  | pointer (next : Nat)
  | leaf
  | notMapped | malformed
deriving DecidableEq, Repr

/-- An entry read at a level (Tables 3.6, 3.8 and 3.9, R72). -/
def entryKind (lvl e : Nat) : EntryKind :=
  if bitsOf e 0 1 = 0 then .notMapped
  else if bitsOf e 40 24 != 0 || decide (hbmSize ≤ entryPa e) then .malformed
  else
    match lvl with
    | 0 => if bitsOf e 1 15 = 0 then .pointer (entryPa e) else .malformed
    | 1 => if bitsOf e 1 15 = 0 then .pointer (entryPa e) else .malformed
    | 2 =>
      if bitsOf e 1 2 = 0 then (if bitsOf e 3 13 = 0 && bitsOf e 16 2 = 0 then .pointer (entryPa e) else .malformed)
      else if bitsOf e 1 2 = 1 then
        (if bitsOf e 4 4 = 0 && bitsOf e 12 4 = 0 && bitsOf e 16 15 = 0 then .leaf else .malformed)
      else .malformed
    | _ => if bitsOf e 1 2 = 1 && bitsOf e 4 4 = 0 && bitsOf e 12 3 = 0 then .leaf else .malformed

/-- The leaf has the permissions. -/
def permits (leaf : Nat) (n : Need) : Bool :=
  (!n.rd || leaf.testBit 8) && (!n.wr || leaf.testBit 9) && (!n.atom || leaf.testBit 10) && (!n.rem || leaf.testBit 11)

/-- The physical address that a leaf of level 2 or 3 gives, or at level 4 a leaf taken for its whole 2 MiB run: its PFN
rounded down to 2 MiB, and VA[20:0] (R74). -/
def leafPa (lvl leaf va : Nat) : Nat :=
  match lvl with
  | 2 => bitsOf leaf 31 9 * 2 ^ 31 + bitsOf va 0 31
  | 3 => entryPa leaf + bitsOf va 0 16
  | _ => bitsOf leaf 21 19 * 2 ^ 21 + bitsOf va 0 21

/-! ### Cached translations (R75) -/

/-- The bits below the page number of a leaf of a level. -/
def pageBits (lvl : Nat) : Nat :=
  match lvl with
  | 2 => 31
  | 3 => 16
  | _ => 21

/-- The page number that a leaf of a level covers. -/
def vpnOf (lvl va : Nat) : Nat := va / 2 ^ pageBits lvl

/-- A cached leaf serves an address. -/
def Tlb.serves (t : Tlb) (asid va : Nat) : Bool :=
  (t.asid == asid || t.leaf.getLsbD 3) && t.vpn == vpnOf t.lvl va

/-- Appends an entry, the oldest giving way in a full structure. -/
def pushCap {α : Type} (cap : Nat) (xs : List α) (x : α) : List α :=
  let ys := xs ++ [x]
  ys.drop (ys.length - cap)

/-- The tag of a walk-cache entry: its level's part of the address. -/
def walkTag (lvl va : Nat) : Nat :=
  match lvl with
  | 0 => 0
  | 1 => va / 2 ^ 44
  | _ => va / 2 ^ 31

/-- The deepest pointer that a walk cache holds for an address: where a walk starts (R76). -/
def walkStart (cache : List WalkEntry) (astRoot asid va : Nat) : Nat × Nat :=
  let hit := fun l => cache.find? fun w => w.asid == asid && w.lvl == l && w.tag == walkTag l va
  match hit 2, hit 1, hit 0 with
  | some w, _, _ => (3, entryAddr (entryPa w.entry.toNat) asid va 3)
  | none, some w, _ => (2, entryAddr (entryPa w.entry.toNat) asid va 2)
  | none, none, some w => (1, entryAddr (entryPa w.entry.toNat) asid va 1)
  | none, none, none => (0, entryAddr astRoot asid va 0)

/-! ### Translating (R76) -/

/-- Who translates: an engine's micro-TLB at a site, or a die's shared TLB alone. -/
inductive Translator where
  | engine (site : Nat) (remote : Bool)
  | port (die : Nat)
deriving DecidableEq, Repr

/-- The die whose shared structures serve. -/
def Translator.die : Translator → Nat
  | .engine site _ => site / 64
  | .port d => d

/-- The outcome of a translation; old is true for one that an invalidation command waits for, and pa is the address of a
poisoned entry. -/
inductive Xlate where
  | ok (pa : Nat) (old : Bool)
  | fault (code pa : Nat)
  | pending
deriving DecidableEq, Repr

/-- Entries of the micro-TLB. -/
def State.micro (s : State) (u : Translator) : List Tlb :=
  match u with
  | .engine site false => (s.site site).tlbQ
  | .engine site true => (s.site site).tlbN
  | .port _ => []

/-- Fills the micro-TLB. -/
def State.fillMicro (s : State) (u : Translator) (t : Tlb) : State :=
  match u with
  | .engine site false => s.modSite site fun x => { x with tlbQ := pushCap 64 x.tlbQ t }
  | .engine site true => s.modSite site fun x => { x with tlbN := pushCap 64 x.tlbN t }
  | .port _ => s

/-- A leaf's answer to an access. -/
def leafAnswer (lvl leaf va : Nat) (n : Need) (old : Bool) : Xlate :=
  if permits leaf n then .ok (leafPa lvl leaf va) old else .fault Code.perm 0

/-- The answer of a walk that has ended. -/
def Walker.answer (w : Walker) (va : Nat) (n : Need) : Xlate :=
  match w.ended with
  | some (.leaf lvl e) => leafAnswer lvl e.toNat va n w.old
  | some .notMapped => .fault Code.notMapped 0
  | some .malformed => .fault Code.malformed 0
  | some (.poison pa) => .fault Code.poison pa
  | none => .pending

/-- Walkers of a die. -/
def walkersPerDie : Nat := 64

/-- A walk is of the 64 KiB page of an address. -/
def Walker.isOf (w : Walker) (asid va : Nat) : Bool := w.asid == asid && w.va / 2 ^ 16 == va / 2 ^ 16

/-- An access waits for a walk. -/
def Walker.awaitedBy (w : Walker) (a : Asker) : Bool := w.askers.any fun x => x.1 == a

/-- Adds an access to those that wait. -/
def addAsker (xs : List (Asker × Need)) (a : Asker) (n : Need) : List (Asker × Need) :=
  if xs.any fun x => x.1 == a then xs else xs ++ [(a, n)]

/-- An access that waits is still to be made. -/
def State.asksOn (s : State) (a : Asker) : Bool :=
  match a with
  | .op k e b => (s.ctx k).any fun c => c.ops.any fun o => o.e == e && o.bundle == b && o.fault.isNone && o.cut.isNone
  | .msg m => s.inbox.contains m

/-- Starts a walk from the deepest pointer that the walk cache holds (R76). -/
def State.startWalk (s : State) (d asid va : Nat) (askers : List (Asker × Need)) : State :=
  let r := walkStart (s.die d).walkCache s.astRoot asid va
  s.modDie d fun x => { x with walkers := x.walkers ++ [⟨asid, va, r.1, r.2, s.invBusy, false, none, askers⟩] }

/-- A walker of a die is free. -/
def Die.walkerFree (x : Die) : Bool := decide ((x.walkers.filter fun w => w.ended.isNone).length < walkersPerDie)

/-- An access misses: it joins a walk of its page, or a miss of its page that waits, else takes a free walker or waits in
arrival order (R76). A walk that was in flight when an invalidation command was accepted serves no further access
(R78). -/
def State.miss (s : State) (d asid va : Nat) (a : Asker) (n : Need) : State :=
  let x := s.die d
  match x.walkers.findIdx? fun w => w.isOf asid va && w.ended.isNone && (!w.old || w.awaitedBy a) with
  | some i => s.modDie d fun y => { y with walkers := modAt y.walkers i fun w => { w with askers := addAsker w.askers a n } }
  | none =>
    match x.waiting.findIdx? fun m => m.asid == asid && m.va / 2 ^ 16 == va / 2 ^ 16 with
    | some i => s.modDie d fun y => { y with waiting := modAt y.waiting i fun m => { m with askers := addAsker m.askers a n } }
    | none =>
      if x.walkerFree then s.startWalk d asid va [(a, n)]
      else s.modDie d fun y => { y with waiting := y.waiting ++ [⟨asid, va, [(a, n)]⟩] }

/-- The oldest miss that waits takes the walker that has come free; what nobody waits for any more is dropped. -/
def State.admitMiss (s : State) (d : Nat) : State :=
  let live := (s.die d).waiting.dropWhile fun m => !m.askers.any fun a => s.asksOn a.1
  let s1 := s.modDie d fun x =>
    { x with
      walkers := x.walkers.filter fun w => w.ended.isNone || w.askers.any fun a => s.asksOn a.1
      waiting := live.drop 1 }
  match live with
  | m :: _ => s1.startWalk d m.asid m.va m.askers
  | [] => s1

/-- An access has its answer: it waits for no walk of the page any more. -/
def State.unask (s : State) (d asid va : Nat) (a : Asker) : State :=
  let off := fun (xs : List (Asker × Need)) => xs.filter fun y => y.1 != a
  s.modDie d fun x =>
    { x with
      walkers := (x.walkers.map fun w => if w.isOf asid va then { w with askers := off w.askers } else w).filter fun w =>
        w.ended.isNone || !w.askers.isEmpty
      waiting := x.waiting.map fun m =>
        if m.asid = asid && m.va / 2 ^ 16 = va / 2 ^ 16 then { m with askers := off m.askers } else m }

/-- The answer of a cached leaf, which the micro-TLB then holds as well unless it faults (R75). -/
def State.cached (s : State) (u : Translator) (fill : Bool) (t : Tlb) (asid va : Nat) (a : Asker) (n : Need) :
    State × Xlate :=
  let s1 := s.unask u.die asid va a
  (if fill && permits t.leaf.toNat n then s1.fillMicro u t else s1, leafAnswer t.lvl t.leaf.toNat va n false)

/-- Translates a local address of an address space for an access: micro-TLB, shared TLB, then a walk (R76). The end of a
walk that is not cached serves only the accesses that waited for it (R75, R78). -/
def State.xlate (s : State) (u : Translator) (asid va : Nat) (n : Need) (a : Asker) : State × Xlate :=
  match (s.micro u).find? fun t => t.serves asid va with
  | some t => s.cached u false t asid va a n
  | none =>
    match (s.die u.die).tlb.find? fun t => t.serves asid va with
    | some t => s.cached u true t asid va a n
    | none =>
      match (s.die u.die).walkers.find? fun w => w.isOf asid va && w.ended.isSome && w.awaitedBy a with
      | some w => (s.unask u.die asid va a, w.answer va n)
      | none => (s.miss u.die asid va a n, .pending)

/-- The leaves with CONT = 1 of the 2 MiB run of a level-3 entry at pa that a walk may take for the run (R74). -/
def State.runLeaves (s : State) (pa : Nat) : List Nat :=
  ((List.range 32).map fun i => pa / 256 * 256 + 8 * i).filterMap fun b =>
    let e := s.hbmNum b 8
    if !(s.hbmRead b 8).any Prod.snd && entryKind 3 e == .leaf && e.testBit 15 then some e else none

/-- The leaf that a walk which has read the level-3 leaf e at pa gives: of the run, or its own (R74). n numbers the free
value. -/
def State.leafFor (s : State) (lvl pa e n : Nat) : Nat × Nat :=
  if lvl = 3 then
    match (s.runLeaves pa)[Config.joinRun n]? with
    | some r => (4, r)
    | none => (3, e)
  else (lvl, e)

/-- A walker may read its next entry: the route to it carries requests, if its die is in service, and no request that came
before it is still on its way to that granule or waits there (R85, R88). -/
def State.walkReady (s : State) (d : Nat) (w : Walker) : Bool :=
  let at_ := fun (r : Req) => match r.place with
    | .hbm pa => pa / 64 == w.pa / 64
    | _ => false
  (s.die d).inService && (s.pathOpen d (paDie w.pa) || !(s.die (paDie w.pa)).inService) && !s.reqs.any at_ &&
    !s.transit.any fun x => x.cargo == .ask && x.start == d && at_ x.req

/-- A walk has ended: a leaf that serves some access which waits goes into the shared TLB, and every other end stays for
those accesses (R75). Under an invalidation command nothing is cached (R78). -/
def State.endWalk (s : State) (d i : Nat) (w : Walker) (r : WalkEnd) : State :=
  let kept := s.modDie d fun x => { x with walkers := modAt x.walkers i fun w => { w with ended := some r } }
  (match r with
    | .leaf lvl e =>
      if !w.nocache && w.askers.any fun a => permits e.toNat a.2 then
        s.modDie d fun x =>
          { x with walkers := x.walkers.eraseIdx i, tlb := pushCap 16384 x.tlb ⟨w.asid, vpnOf lvl w.va, lvl, e⟩ }
      else kept
    | _ => kept).admitMiss d

/-- A walker reads its next entry (R73); a pointer goes into the walk cache, unless the result is not cached. DESIGN CHOICE
(assumption 116): an entry that ASTBASE puts beyond HBM is beyond reach, and the walk ends with POISON. -/
def State.walkStep (s : State) (d i : Nat) : State :=
  match (s.die d).walkers[i]? with
  | some w =>
    if w.ended.isSome || !s.walkReady d w then s
    else if (s.hbmRead w.pa 8).any Prod.snd then s.endWalk d i w (.poison w.pa)
    else
      let e := s.hbmNum w.pa 8
      match entryKind w.lvl e with
      | .notMapped => s.endWalk d i w .notMapped
      | .malformed => s.endWalk d i w .malformed
      | .pointer next =>
        s.modDie d fun x =>
          { x with
            walkers := modAt x.walkers i fun w =>
              { w with lvl := w.lvl + 1, pa := entryAddr next w.asid w.va (w.lvl + 1) }
            walkCache := if w.nocache then x.walkCache
              else pushCap 1024 x.walkCache ⟨w.asid, w.lvl, walkTag w.lvl w.va, BitVec.ofNat 64 e⟩ }
      | .leaf =>
        let l := s.leafFor w.lvl w.pa e s.fresh
        { s with fresh := s.fresh + 1 }.endWalk d i w (.leaf l.1 (BitVec.ofNat 64 l.2))
  | none => s

/-! ### A whole walk as one event: the distributor's reads and writes -/

/-- Walks from a level on, by the tables as they stand. -/
def State.walkFrom (s : State) (asid va lvl pa : Nat) : Nat → WalkEnd
  | 0 => .malformed
  | fuel + 1 =>
    if (s.hbmRead pa 8).any Prod.snd then .poison pa
    else
      match entryKind lvl (s.hbmNum pa 8) with
      | .notMapped => .notMapped
      | .malformed => .malformed
      | .pointer next => s.walkFrom asid va (lvl + 1) (entryAddr next asid va (lvl + 1)) fuel
      | .leaf =>
        let l := s.leafFor lvl pa (s.hbmNum pa 8) (s.fresh + va / 2 ^ 16)
        .leaf l.1 (BitVec.ofNat 64 l.2)

/-- The entries that such a walk reads. -/
def State.walkVisits (s : State) (asid va lvl pa : Nat) : Nat → List Nat
  | 0 => []
  | fuel + 1 =>
    pa :: match entryKind lvl (s.hbmNum pa 8) with
      | .pointer next => s.walkVisits asid va (lvl + 1) (entryAddr next asid va (lvl + 1)) fuel
      | _ => []

/-- The physical address of a distributor's access (R267, R268), none where it faults. -/
def State.walkAll (s : State) (asid va : Nat) (n : Need) : Option Nat :=
  match s.walkFrom asid va 0 (entryAddr s.astRoot asid va 0) 4 with
  | .leaf lvl e => if permits e.toNat n then some (leafPa lvl e.toNat va) else none
  | _ => none

/-- A distributor of die d may make an access of n bytes in one page now: the ways to the entries of its walk and to the page carry
requests. -/
def State.vaOpens (s : State) (d asid va n : Nat) (need : Need) : Bool :=
  (s.walkVisits asid va 0 (entryAddr s.astRoot asid va 0) 4).all (fun pa => s.opens d pa 8) &&
    (s.walkAll asid va need).all fun pa => s.opens d pa n

/-! ### Invalidation (R77, R78) -/

/-- INVCTL fields (Table 3.14). -/
def invKind (v : Word) : Nat := bitsOf v.toNat 0 3
def invCount (v : Word) : Nat := bitsOf v.toNat 8 24
def invAsidOf (v : Word) : Nat := bitsOf v.toNat 48 16

/-- A write to INVCTL is refused (R77). -/
def State.invRefuses (s : State) (v : Word) : Bool :=
  s.invBusy || decide (4 ≤ invKind v) || bitsOf v.toNat 3 5 != 0 || bitsOf v.toNat 32 16 != 0 ||
    (invKind v == 2 && (invCount v == 0 || decide (2 ^ 40 < bitsOf s.invva.toNat 16 40 + invCount v)))

/-- The range of a kind-2 command meets pages of 2^sh bytes from number vpn. -/
def rangeMeets (va : Word) (count vpn sh : Nat) : Bool :=
  let lo := bitsOf va.toNat 16 40 * 2 ^ 16
  decide (lo < (vpn + 1) * 2 ^ sh) && decide (vpn * 2 ^ sh < lo + count * 2 ^ 16)

/-- A command names a cached leaf. -/
def Tlb.named (t : Tlb) (v va : Word) : Bool :=
  match invKind v with
  | 0 => true
  | 1 => t.asid == invAsidOf v && !t.leaf.getLsbD 3
  | 2 => (t.asid == invAsidOf v || t.leaf.getLsbD 3) &&
      rangeMeets va (invCount v) t.vpn (pageBits t.lvl)
  | _ => t.leaf.getLsbD 3

/-- A command names a walk-cache entry. A pointer carries no G bit, so kind 1 names every entry of its ASID, and kind 3
none; kind 2 names the pointers that cover a page of the range. -/
def WalkEntry.named (w : WalkEntry) (v va : Word) : Bool :=
  match invKind v with
  | 0 => true
  | 1 => w.asid == invAsidOf v
  | 2 => w.asid == invAsidOf v && w.lvl != 0 && rangeMeets va (invCount v) w.tag (if w.lvl = 1 then 44 else 31)
  | _ => false

/-- Removes what a command names from every structure. -/
def State.invalidate (s : State) (v va : Word) : State :=
  let drop := fun l : List Tlb => l.filter fun t => !t.named v va
  { s with
    dies := s.dies.map fun (d : Die) => { d with
      tlb := drop d.tlb
      walkCache := d.walkCache.filter fun w => !w.named v va }
    sites := s.sites.map fun (x : Site) => { x with tlbQ := drop x.tlbQ, tlbN := drop x.tlbN } }

/-- Accepts or refuses a write to INVCTL (R77): an accepted one starts the command, and marks the walks in flight and
the requests already translated. -/
def State.writeInvctl (s : State) (v : Word) : State :=
  if s.invRefuses v then { s with invRefused := true }
  else
    let s1 := s.invalidate v s.invva
    { s1 with
      invctl := v
      invAt := s.invva
      invRefused := false
      invBusy := true
      dies := s1.dies.map fun (d : Die) => { d with walkers := d.walkers.map fun w => { w with nocache := true, old := true } }
      reqs := s1.reqs.map fun (r : Req) => { r with old := true }
      transit := s1.transit.map fun (x : Crossing) => { x with req := { x.req with old := true } }
      clpOut := s1.clpOut.map fun (o : ClpOut) => { o with req := { o.req with old := true } } }

/-- The command may complete (R78): its walks have finished and served the accesses that waited for them, and every access
that they or a removed entry translated has been performed. -/
def State.invDone (s : State) : Bool :=
  s.invBusy && s.dies.all (fun d => d.walkers.all fun w => !w.old || (w.ended.isSome && !w.askers.any fun a => s.asksOn a.1)) &&
    s.reqs.all (fun r => !r.old) && s.transit.all (fun x => !x.req.old) && s.clpOut.all fun o => !o.req.old

end Sys2Proof.Machine
end

