-- ==== Sys2Proof/Machine/Requests.lean ====
section
/-! DEFINITION. Requests (R19, R65, R66, R81 to R88, R102, R243, R308, R309): posting them to their homes, on their own
die, over the die links or over CLP, performing them, and what the response does for the operation or the peer that made
them; the near-memory core's routines (R251, R252). -/
namespace Sys2Proof.Machine

/-! ### Operations -/

/-- The operation in engine entry e of a context. -/
def Ctx.op (c : Ctx) (e : Nat) : Option Op := c.ops.find? fun o => o.e = e

/-- Changes the operation in an entry. -/
def Ctx.modOp (c : Ctx) (e : Nat) (f : Op → Op) : Ctx :=
  { c with ops := c.ops.map fun o => if o.e = e then f o else o }

/-- Frees an entry. -/
def Ctx.dropOp (c : Ctx) (e : Nat) : Ctx := { c with ops := c.ops.filter fun o => o.e != e }

/-- Changes an operation of a context. -/
def State.modOp (s : State) (k : CtxKey) (e : Nat) (f : Op → Op) : State := s.modCtx k fun c => c.modOp e f

/-- An operation that CPYR could continue, and that a translation fault may cut (R253, R337). -/
def Op.cuttable (o : Op) : Bool := (opcOf o.kind).isSome && o.kind != .mcast

/-- SLOT of an operation's reports. -/
def Op.slot (o : Op) : Nat := if o.e < 32 then 6 else 7

/-- The report of a fault that an engine finds after issue: cut, or fatal (R337). -/
def Ctx.copyReport (c : Ctx) (o : Op) (code detail : Nat) : Report :=
  let cuts := (code = Code.notMapped || code = Code.perm) && o.cuttable && c.rcv
  ⟨code, if cuts then 3 else 4, o.slot, detail⟩

/-! ### Devices and routes (R308, R309) -/

/-- DEVCFG has been written. -/
def State.devSet (s : State) : Bool := s.devcfg.getLsbD 9

/-- This device's index. -/
def State.devId (s : State) : Nat := bitsOf s.devcfg.toNat 0 9

/-- The package port that a route entry names. -/
def State.routePort (s : State) (d : Nat) : Nat := bitsOf (s.routes.getD d 0).toNat 0 4

/-- The state of a package port: ST of PORTSTAT. -/
def State.portState (s : State) (p : Nat) : Nat :=
  match (s.die (p / 4)).ports[p % 4]? with
  | some x => if (s.die (p / 4)).inService then x.st else 2
  | none => 2

/-- A valid route leads to device d. -/
def State.routeOk (s : State) (d : Nat) : Bool := (s.routes.getD d 0).getLsbD 63 && s.portState (s.routePort d) != 2

/-- The switch hops of a route entry, in order. -/
def State.routeHops (s : State) (d : Nat) : List Nat :=
  let w := (s.routes.getD d 0).toNat
  (List.range (bitsOf w 6 2)).map fun i => bitsOf w (24 + 8 * i) 8

/-- The port and the hops of the route to device d. -/
def State.routeTo (s : State) (d : Nat) : Nat × List Nat := (s.routePort d, s.routeHops d)

/-! ### Homes of requests (R83, R88) -/

/-- What a request asks of another device. -/
def ReqKind.clp : ReqKind → ClpOp
  | .read n _ _ _ _ => .read n
  | .write d => .write d
  | .atomic t op v x => .atomic t op v x
  | .fadd v => .fadd v
  | .atomx n r => .atomx n r
  | .signal k => .signal k

/-- The group identifier under which a request is made. -/
def State.gidOf (s : State) (r : Req) : Word32 :=
  match r.owner with
  | some (k, _) =>
    match s.ctx k with
    | some c => c.info.gid
    | none => 0
  | none => 0

/-- The die on which the storage of a context lies: its site's, or that of its save image; own where it is gone. -/
def State.ctxDie (s : State) (own : Nat) (k : CtxKey) : Nat :=
  match s.ctx k with
  | some c => if c.status = .saved then ((s.imageOf k).map paDie).getD own else c.site / 64
  | none => own

/-- The die of a request's home; of another device's storage, that of the port by which the request leaves. -/
def State.homeDie (s : State) (r : Req) : Nat :=
  match r.place with
  | .hbm pa => paDie pa
  | .lm k _ | .ts k _ | .asPlane k _ | .sem k _ => s.ctxDie r.src k
  | .dev d _ _ => s.routePort d / 4

/-- A write or an increment: once it has passed what it shares with the observers of a scope, it is performed there (R88). -/
def Req.isWrite (r : Req) : Bool :=
  match r.kind with
  | .write _ | .signal _ => true
  | .read .. | .atomic .. | .fadd _ | .atomx .. => false

/-- A request that may write: an atomic as well. Its write is performed at a scope once it has passed what it shares with the
observers of that scope; its read takes its value at the home (R87, R88). -/
def Req.writes (r : Req) : Bool :=
  match r.kind with
  | .read .. => false
  | .write _ | .signal _ | .atomic .. | .fadd _ | .atomx .. => true

/-- A place in HBM. -/
def Place.isHbm : Place → Bool
  | .hbm _ => true
  | _ => false

/-- Changes the operation that made a request. -/
def State.modOwner (s : State) (r : Req) (f : Op → Op) : State :=
  match r.owner with
  | some (k, e) => s.modOp k e f
  | none => s

/-- No request counts any more as one whose write is performed at a scope though not at its home. -/
def Op.unpass (o : Op) (r : Req) : Op :=
  { o with
    outTile := o.outTile - r.passTile.toNat
    outDie := o.outDie - r.passDie.toNat
    outPkg := o.outPkg - r.passPkg.toNat }

/-- A request has been dealt with: one less is out. -/
def Op.less (o : Op) (r : Req) : Op := { o.unpass r with out := o.out - 1 }

/-! ### Routines of the near-memory core (R251, R252) -/

/-- The core: 32 registers, the line, and whether a store was executed. -/
structure Core32 where
  x : List Nat
  line : List Byte
  wrote : Bool
deriving DecidableEq, Repr

/-- Register i; x0 reads 0. -/
def Core32.reg (m : Core32) (i : Nat) : Nat := if i = 0 then 0 else m.x.getD i 0

/-- Writes register i modulo 2^32; x0 keeps 0. -/
def Core32.setReg (m : Core32) (i v : Nat) : Core32 := if i = 0 then m else { m with x := m.x.set i (v % 2 ^ 32) }

/-- The two's complement of an integer in 32 bits. -/
def w32 (v : Int) : Nat := wrap v 32

/-- Register and immediate ALU operations by funct3; alt selects SUB and SRA. -/
def rvAlu (f3 : Nat) (alt : Bool) (a b : Nat) : Nat :=
  let sh := b % 32
  match f3 with
  | 0 => if alt then w32 ((a : Int) - b) else a + b
  | 1 => a * 2 ^ sh
  | 2 => if sextInt a 32 < sextInt b 32 then 1 else 0
  | 3 => if a < b then 1 else 0
  | 4 => a ^^^ b
  | 5 => if alt then w32 (sextInt a 32 / (2 ^ sh : Int)) else a / 2 ^ sh
  | 6 => a ||| b
  | _ => a &&& b

/-- The bytes of a load or store by funct3; none where Table 10.7 has no such width. -/
def rvWidth (f3 : Nat) : Option Nat :=
  match f3 with
  | 0 => some 1
  | 1 => some 2
  | 2 => some 4
  | _ => none

/-- The offset of an access in the line, under R252. -/
def rvAddr (base : Nat) (imm : Int) (n : Nat) : Option Nat :=
  let a := w32 ((base : Int) + imm)
  if a % n = 0 && decide (a + n ≤ 64) then some a else none

/-- A branch is taken, by funct3. -/
def rvTaken (f3 a b : Nat) : Option Bool :=
  match f3 with
  | 0 => some (a == b)
  | 1 => some (a != b)
  | 4 => some (decide (sextInt a 32 < sextInt b 32))
  | 5 => some (!decide (sextInt a 32 < sextInt b 32))
  | 6 => some (decide (a < b))
  | 7 => some (!decide (a < b))
  | _ => none

/-- One instruction of a routine of n words at word index pc: the core and the next index; none where it faults. DESIGN CHOICE
(assumption 93): a branch whose target is no multiple of 4 faults, taken or not. -/
def Core32.step (m : Core32) (n pc w : Nat) : Option (Core32 × Nat) :=
  let rd := bitsOf w 7 5
  let f3 := bitsOf w 12 3
  let a := m.reg (bitsOf w 15 5)
  let b := m.reg (bitsOf w 20 5)
  let f7 := bitsOf w 25 7
  let immI := sextInt (bitsOf w 20 12) 12
  match bitsOf w 0 7 with
  | 0x33 =>
    if f7 = 0 || (f7 = 0x20 && (f3 = 0 || f3 = 5)) then some (m.setReg rd (rvAlu f3 (f7 = 0x20) a b), pc + 1) else none
  | 0x13 =>
    if f3 = 1 || f3 = 5 then
      if f7 = 0 || (f7 = 0x20 && f3 = 5) then some (m.setReg rd (rvAlu f3 (f7 = 0x20) a (bitsOf w 20 5)), pc + 1) else none
    else some (m.setReg rd (rvAlu f3 false a (w32 immI)), pc + 1)
  | 0x37 => some (m.setReg rd (w / 2 ^ 12 * 2 ^ 12), pc + 1)
  | 0x03 =>
    match rvWidth (f3 % 4) with
    | some k =>
      if f3 = 6 then none
      else
        match rvAddr a immI k with
        | some o =>
          let v := recField m.line o k
          some (m.setReg rd (if f3 < 4 then w32 (sextInt v (8 * k)) else v), pc + 1)
        | none => none
    | none => none
  | 0x23 =>
    match rvWidth f3 with
    | some k =>
      match rvAddr a (sextInt (bitsOf w 25 7 * 32 + bitsOf w 7 5) 12) k with
      | some o =>
        some ({ m with line := m.line.take o ++ leBytes k b ++ m.line.drop (o + k), wrote := true }, pc + 1)
      | none => none
    | none => none
  | 0x63 =>
    let off := bitsOf w 8 4 * 2 + bitsOf w 25 6 * 32 + bitsOf w 7 1 * 2048 + bitsOf w 31 1 * 4096
    match rvTaken f3 a b with
    | some t =>
      if off % 4 != 0 || decide (4096 ≤ off) || off = 0 || decide (4 * n < 4 * pc + off) then none
      else some (m, if t then pc + off / 4 else pc + 1)
    | none => none
  | _ => none

/-- Runs a routine from word index pc; the end is at index n. Left with the core, right with the index of the word that
faulted. -/
def Core32.run (m : Core32) (n : Nat) (code : List Byte) (pc : Nat) : Nat → Except Nat Core32
  | 0 => if pc = n then .ok m else .error pc
  | fuel + 1 =>
    if pc = n then .ok m
    else
      match m.step n pc (recField code (4 * pc) 4) with
      | some (m1, p) => m1.run n code p fuel
      | none => .error pc

/-- Runs the routine of a record on a line: x10 to x17 from ARGS, at most 16 instructions. -/
def runRoutine (n : Nat) (recd line : List Byte) : Except Nat Core32 :=
  let x := tabulate 32 fun i => if decide (10 ≤ i) && decide (i < 18) then recField recd (64 + 4 * (i - 10)) 4 else 0
  Core32.run ⟨x, line, false⟩ n recd 0 16

/-- The final ARGS. -/
def Core32.args (m : Core32) : List Byte := (tabulate 8 fun i => m.reg (10 + i)).flatMap (leBytes 4)

/-! ### What a request does at its home -/

/-- Fits data to n bytes; what has vanished reads as poisoned. -/
def fitTo (n : Nat) (xs : List Marked) : List Marked := xs.take n ++ List.replicate (n - xs.length) (0, true)

/-- Bytes of own LM as the operation's bundle saw them (R90). -/
def overlay (snap : List (Nat × Marked)) (off : Nat) (xs : List Marked) : List Marked :=
  xs.zipIdx.map fun p =>
    match snap.find? fun q => q.1 = off + p.2 with
    | some q => q.2
    | none => p.1

/-- The snapshot of the operation that owns a request on k's LM. -/
def State.snapOf (s : State) (r : Req) (k : CtxKey) : List (Nat × Marked) :=
  match r.owner with
  | some (k1, e) =>
    if k1 = k then
      match (s.ctx k).bind fun c => c.op e with
      | some o => o.snap
      | none => []
    else []
  | none => []

/-- Reads n bytes at a request's place. -/
def State.readPlace (s : State) (r : Req) (n : Nat) : List Marked :=
  match r.place with
  | .hbm pa => s.hbmRead pa n
  | .lm k off => if s.ctxLost k then fitTo n [] else overlay (s.snapOf r k) off (fitTo n (s.lmRead k off n))
  | .asPlane k off =>
    match s.ctx k with
    | some c => fitTo n (markedRead c.as c.poisonAs off n)
    | none => fitTo n []
  | .ts .. | .sem .. | .dev .. => fitTo n []

/-- Writes bytes at a place. -/
def State.writePlace (s : State) (p : Place) (data : List Marked) : State :=
  match p with
  | .hbm pa => s.hbmWrite pa data
  | .lm k off => s.lmPut k off data
  | .ts k off => s.modCtx k fun c => c.tsPut off data
  | .asPlane .. | .sem .. | .dev .. => s

/-- A place whose writes are refused: storage beyond reach (R372). -/
def State.placeLost (s : State) (p : Place) (n : Nat) : Bool :=
  match p with
  | .hbm pa => !s.reachesAll pa n
  | .lm k off => s.imageLost k (imgLm + off) n
  | .ts k _ | .asPlane k _ | .sem k _ => s.ctxLost k
  | .dev .. => false

/-- DETAIL of POISON for a place. -/
def Place.poisonDetail : Place → Nat
  | .hbm pa => Machine.poisonDetail 5 (pa / 8 % 2 ^ 24)
  | .lm _ off => Machine.poisonDetail 0 (off / 8)
  | .ts _ off => Machine.poisonDetail 1 (off / 256)
  | .asPlane _ off => Machine.poisonDetail 2 (off / 65536)
  | .sem _ i => Machine.poisonDetail 4 i
  | .dev .. => 5

/-- An atomic at its home: f gives the new bytes, if any, and the bytes to return. A location that is poisoned or beyond
reach keeps its value and faults (R345, R372). -/
def State.atomicAt (s : State) (r : Req) (n : Nat) (f : List Byte → Option (List Byte) × List Byte) : State × Cargo :=
  let old := s.readPlace r n
  if old.any Prod.snd || s.placeLost r.place n then (s, .fail Code.poison r.place.poisonDetail)
  else
    let res := f (old.map Prod.fst)
    (match res.1 with
      | some bs => s.writePlace r.place (clean bs)
      | none => s, .old res.2)

/-- The FP32 sum of an ATOM.f32.fadd (R250). -/
def faddBytes (v : Word32) (old : List Byte) : Option (List Byte) × List Byte :=
  (some (leBytes 4 (add32 (leNat old) v.toNat)), old)

/-- An atomic of Table 10.2 on little-endian bytes. -/
def atomBytesOf (t : AtomTy) (op : AtomOp) (v expd : Word) (old : List Byte) : Option (List Byte) × List Byte :=
  ((atomNew t op (leNat old) v.toNat expd.toNat).map fun x => leBytes (atomBytes t) x, old)

/-- What a request does at its home, and its response. -/
def State.effect (s : State) (r : Req) : State × Cargo :=
  match r.kind with
  | .read n _ _ _ _ => (s, .data (s.readPlace r n))
  | .write data =>
    if s.placeLost r.place data.length then (s, .fail Code.poison r.place.poisonDetail)
    else (s.writePlace r.place data, .ack)
  | .atomic t op v x => s.atomicAt r (atomBytes t) (atomBytesOf t op v x)
  | .fadd v => s.atomicAt r 4 (faddBytes v)
  | .atomx n recd =>
    let line := s.readPlace r 64
    if line.any Prod.snd || s.placeLost r.place 64 then (s, .fail Code.poison r.place.poisonDetail)
    else
      match runRoutine n recd (line.map Prod.fst) with
      | .ok m => (if m.wrote then s.writePlace r.place (clean m.line) else s, .old m.args)
      | .error i => (s, .fail Code.atomxRoutine i)
  | .signal _ => (s, .ack)

/-! ### What a performed request does for its operation -/

/-- Answers a peer device, by the port that its request came by. -/
def State.answer (s : State) (dt : Nat × Nat) (data : List Marked) (code detail : Nat) : State :=
  { s with clpSent := s.clpSent ++ [⟨none, dt.1, .answer dt.2 data code detail⟩] }

/-- A write or signal has been performed: one request less is out. -/
def State.finishReq (s : State) (r : Req) : State :=
  let s1 := s.modOwner r fun o =>
    { o.less r with next := match r.kind with
        | .signal _ => 1
        | _ => o.next }
  match r.ans with
  | some a => s1.answer a [] 0 0
  | none => s1

/-- The end of the target of an MCAST in which a byte of it lies (R259). -/
def Op.targetEnd (o : Op) (pos : Nat) : Nat := (pos / ctlLen o.ctl + 1) * ctlLen o.ctl

/-- An operation goes no further than byte pos: an MCAST goes on with its next target, of which nothing has been read yet
(R259, R338). -/
def Op.stopAt (o : Op) (pos : Nat) : Op :=
  if o.kind = .mcast then
    if o.next < o.targetEnd pos then { o with next := o.targetEnd pos, carry := [] } else o
  else { o with next := min o.next pos }

/-- A request has failed: its operation faults at the start of the request, the earliest fault standing. -/
def State.failReq (s : State) (r : Req) (code detail : Nat) : State :=
  let s1 := match r.owner with
    | some (k, e) => s.modCtx k fun c => c.modOp e fun o =>
      { (o.less r).stopAt r.pos with fault := some (o.fault.getD (c.copyReport o code detail)) }
    | none => s
  match r.ans with
  | some a => s1.answer a [] code detail
  | none => s1

/-! ### Releases and the writes of other contexts (R98) -/

/-- The write of a request is performed at a scope, though not yet at its home. -/
def Req.passes (r : Req) : Scope → Bool
  | .tile => r.passTile
  | .die => r.passDie
  | .pkg => r.passPkg
  | .dom => false

/-- The requests of the module that have not been performed. -/
def State.outstanding (s : State) : List Req :=
  s.reqs ++ ((s.transit.filter fun x => x.cargo == .ask).map Crossing.req ++ s.clpOut.map ClpOut.req)

/-- A write of another context that may happen before a release of c at a scope, and is not performed there: it has passed
what it shares with observers of its own issuer's site, which need not be observers of c's (R88, R98). -/
def State.lags (s : State) (c : Ctx) (sc : Scope) (r : Req) : Bool :=
  let near := r.passPkg || (r.passDie && r.src == c.site / 64)
  let own := r.passTile && r.owner.any fun p => (s.ctx p.1).any fun x => x.site == c.site
  r.spread && r.isWrite && r.owner.any (fun p => p.1 != c.key) &&
    !(match sc with
      | .tile => near || own
      | .die => near
      | .pkg => r.passPkg
      | .dom => false)

/-- A release of context c, of bundle b, may be performed at a scope: what happens before it is performed there (R98). -/
def State.releases (s : State) (c : Ctx) (b : Nat) (self : Option Nat) (sc : Scope) : Bool :=
  c.covered b self sc && !s.outstanding.any (s.lags c sc)

/-- A release of a context at a scope is performed: its writes that are performed there but not at their homes may now happen
before releases of other contexts (R97). -/
def State.spreadFrom (s : State) (k : CtxKey) (sc : Scope) : State :=
  let mark := fun (r : Req) => { r with spread := r.spread || (r.isWrite && r.passes sc && r.owner.any fun p => p.1 == k) }
  { s with
    reqs := s.reqs.map mark
    transit := s.transit.map fun (x : Crossing) => { x with req := mark x.req }
    clpOut := s.clpOut.map fun (x : ClpOut) => { x with req := mark x.req } }

/-! ### Posting -/

/-- A write has passed what it shares with the observers of some scopes (R88). -/
def State.pass (s : State) (r : Req) (tile die pkg : Bool) : State × Req :=
  let more := fun (b old : Bool) => (r.writes && b && !old).toNat
  (s.modOwner r fun o =>
    { o with
      outTile := o.outTile + more tile r.passTile
      outDie := o.outDie + more die r.passDie
      outPkg := o.outPkg + more pkg r.passPkg },
   { r with
     passTile := r.passTile || (r.writes && tile)
     passDie := r.passDie || (r.writes && die)
     passPkg := r.passPkg || (r.writes && pkg) })

/-- Sends a request to another device over CLP. Every observer of this device reaches it by the same port (R88). -/
def State.send (s : State) (r : Req) (route : Nat × List Nat) (d : Nat) (isLm : Bool) (addr : Word) : State :=
  let msg := if isLm then ClpMsg.lmRequest 0 s.devId s.tag (s.gidOf r) addr r.kind.clp
    else ClpMsg.vaRequest 0 s.devId s.tag (s.gidOf r) addr r.kind.clp
  let x := s.pass r true true true
  { x.1 with
    clpOut := x.1.clpOut ++ [⟨s.tag, route.1, x.2⟩]
    clpSent := x.1.clpSent ++ [⟨some route, d, msg⟩]
    tag := s.tag + 1 }

/-- DETAIL of REMOTE_TARGET. -/
def targetDetail (addr : Word) : Nat :=
  let a := addr.toNat
  rlDev a + rlGrank a * 2 ^ 9 + rlTrank a * 2 ^ 18

/-- DETAIL of REMOTE_TARGET for a context of this device. -/
def State.memberDetail (s : State) (c : Ctx) : Nat := s.devId + c.info.grank * 2 ^ 9 + c.key.rank * 2 ^ 18

/-- The context whose storage a place is: LM, TS, AS or a semaphore. -/
def Place.holder : Place → Option CtxKey
  | .lm k _ | .ts k _ | .asPlane k _ | .sem k _ => some k
  | .hbm _ | .dev .. => none

/-- A request to storage of a tract. -/
def Req.targets (r : Req) (t : Nat) : Bool := r.place.holder.any fun k => k.tract == t

/-- DETAIL of REMOTE_TARGET for a request to a context of this device. -/
def State.goneDetail (s : State) (r : Req) : Nat := ((r.place.holder.bind s.ctx).map s.memberDetail).getD s.devId

/-- An increment at a semaphore unit of this device; one beyond reach faults (R164, R372). -/
def State.signalAt (s : State) (k : CtxKey) (i : Nat) (inc : Word32) : State × Cargo :=
  match s.ctx k with
  | none => (s, .fail Code.remoteTarget (s.devId + k.rank * 2 ^ 18))
  | some c =>
    if s.ctxLost k then (s, .fail Code.remoteTarget (s.memberDetail c))
    else if s.imageLost k (0x5000 + 8 * i) 8 then (s, .fail Code.poison (poisonDetail 4 i))
    else if c.part.sem * 32 ≤ i then (s, .fail Code.semRange i)
    else (s.semAddAt k i inc, .ack)

/-- A write on its way to the LM of a peer: what its issuer's engines ask of that LM later stands behind it (R88). -/
def Req.toPeer (r : Req) : Bool :=
  match r.place with
  | .lm k _ => r.owner.any fun p => p.1 != k
  | _ => false

/-- A write that is posted: one to a channel, or one that leaves its die, has passed what it shares with the observers of its
die; one to the LM of a peer on the die what it shares with those of its tile (R88). -/
def State.passPosted (s : State) (r : Req) (leaves : Bool) : State × Req :=
  s.pass r (leaves || r.place.isHbm || r.toPeer) (leaves || r.place.isHbm) false

/-- The response to a request travels from die h back to the die that asked (R19); there it takes effect. -/
def State.cross (s : State) (r : Req) (h : Nat) (x : Cargo) : State :=
  { s with transit := s.transit ++ [⟨h, h, r.src, none, r, x⟩] }

/-- A response without data takes effect where it was asked for. -/
def State.settled (s : State) (r : Req) (x : Cargo) : State :=
  match x with
  | .fail code detail => s.failReq r code detail
  | _ => s.finishReq r

/-- A response from die h needs no link: it stays on its die, or one of the two has left service. -/
def State.near (s : State) (r : Req) (h : Nat) : Bool := h == r.src || !(s.die r.src).inService || !(s.die h).inService

/-- The response to an increment. -/
def State.signalled (s : State) (r : Req) (h : Nat) (x : Cargo) : State :=
  if s.near r h then s.settled r x else s.cross r h x

/-- A request reaches its home: a semaphore unit or TS performs it, the port of another device sends it, and any other home
serves it in its turn. TS does not lie behind the LM port (Table 4.1). -/
def State.reach (s : State) (r : Req) (h : Nat) : State :=
  match r.place, r.kind with
  | .dev d isLm addr, _ => s.send r (s.routeTo d) d isLm addr
  | .sem k i, .signal inc =>
    let x := s.signalAt k i inc
    x.1.signalled r h x.2
  | .ts .., .write _ =>
    let x := s.effect r
    x.1.signalled r h x.2
  | _, _ => { s with reqs := s.reqs ++ [r] }

/-- Sends a request to its home: on its own die, or over the die links, with the route of its device. -/
def State.post (s : State) (r : Req) : State :=
  let h := s.homeDie r
  let leaves := h != r.src && (s.die h).inService
  let x := s.passPosted r leaves
  if leaves then
    let route := match r.place with
      | .dev d _ _ => some (s.routeTo d)
      | _ => none
    { x.1 with transit := x.1.transit ++ [⟨r.src, r.src, h, route, x.2, .ask⟩] }
  else x.1.reach x.2 h

/-- An atomic has been performed at its home: the old value, or the final ARGS of an ATOMX, goes back to the issuer's LM
where the operation asks for it (R249, R251). -/
def State.atomDone (s : State) (r : Req) (old : List Byte) : State :=
  let s1 := match r.owner with
    | some (k, e) =>
      let back := fun (off : Nat) (t : State) =>
        t.post { r with
          ans := none, place := .lm k off, kind := .write (clean old)
          passTile := false, passDie := false, passPkg := false, spread := false }
      match (s.ctx k).bind fun c => c.op e with
      | some o =>
        let t := s.modOp k e fun o => { o.unpass r with next := 1 }
        if o.kind = .atomx then back (o.src.toNat + 64) t
        else if ctlRet o.ctl then back (bitsOf o.ctl.toNat 0 21) t
        else t.modOp k e fun o => { o with out := o.out - 1 }
      | none => s
    | none => s
  match r.ans with
  | some a => s1.answer a (clean old) 0 0
  | none => s1

/-- A place of another device to which no valid route leads any more. -/
def State.routeLost (s : State) (p : Place) : Bool :=
  match p with
  | .dev d _ _ => !s.routeOk d
  | _ => false

/-- DETAIL of REMOTE_TARGET for a request to another device. -/
def Place.targetDetail : Place → Nat
  | .dev _ true addr => Machine.targetDetail addr
  | .dev d false _ => d
  | _ => 0

/-- The granule of n bytes that a read was made for is refused: its operation has met a fault at an earlier byte meanwhile, or at
the same target of an MCAST (R338). -/
def State.leftBehind (s : State) (r : Req) (n : Nat) : Bool :=
  match r.owner with
  | some (k, e) => ((s.ctx k).bind fun c => c.op e).any fun o => decide (o.next != r.pos + n)
  | none => false

/-- The bytes of a whole read: its last bytes stay with the operation (R84), the others go to the destination, or to the
peer that asked. -/
def State.gotAll (s : State) (r : Req) (all : List Marked) (dst : Option Place) (keep : Nat) : State :=
  let n := all.length - keep
  let s1 := s.modOwner r fun o => { o with carry := all.drop n }
  match dst with
  | some d =>
    if s.leftBehind r n then s.modOwner r fun o => o.less r
    else if s.routeLost d then s1.failReq r Code.remoteTarget d.targetDetail
    else s1.post { r with place := d, kind := .write (all.take n) }
  | none =>
    match r.ans with
    | some a => s1.answer a all 0 0
    | none => s1

/-- A read has taken its value: the next part is read, or the whole read is done. -/
def State.gotPart (s : State) (r : Req) (data : List Marked) : State :=
  match r.kind with
  | .read _ rest got dst keep =>
    let s1 := s.modOwner r fun o => { o with taken := o.taken + data.length }
    match rest with
    | (p, n) :: more =>
      if s.routeLost p then s1.failReq r Code.remoteTarget p.targetDetail
      else s1.post { r with place := p, kind := .read n more (got ++ data) dst keep }
    | [] => s1.gotAll r (got ++ data) dst keep
  | _ => s

/-- A request given up: a read completes poisoned, with every part of it; everything else faults (R369, R375). -/
def State.giveUp (s : State) (r : Req) (code detail : Nat) : State :=
  match r.kind with
  | .read n rest got dst keep =>
    let left := n + (rest.map Prod.snd).sum
    (s.modOwner r fun o => { o with taken := o.taken + left }).gotAll r (got ++ fitTo left []) dst keep
  | _ => s.failReq r code detail

/-- A request whose response was due from a lost die: storage beyond reach (R369), where a signal is a remote operation to a
context on a die out of service (R372). -/
def State.lostResponse (s : State) (r : Req) : State :=
  match r.kind, r.place with
  | .signal _, .dev .. => s.giveUp r Code.remoteTarget r.place.targetDetail
  | .signal _, _ => s.giveUp r Code.remoteTarget (s.goneDetail r)
  | _, _ => s.giveUp r Code.poison r.place.poisonDetail

/-- A response takes effect on the die that asked. -/
def State.response (s : State) (r : Req) (x : Cargo) : State :=
  match x with
  | .data xs => s.gotPart r xs
  | .old bs => s.atomDone r bs
  | .ack => s.finishReq r
  | .fail code detail => s.failReq r code detail
  | .gone => s.giveUp r Code.remoteTarget r.place.targetDetail
  | .ask | .turned _ => s

/-- The response to a request, from die h. -/
def State.respond (s : State) (r : Req) (h : Nat) (x : Cargo) : State :=
  if s.near r h then s.response r x else s.cross r h x

/-! ### Performing a request at its home -/

/-- Performs a request at its home; the response goes back to the die that asked. DESIGN CHOICE (assumption 89): a granule of a
copy, of up to 64 bytes, is read or written as one event, where R84 would let its words be of different writes. -/
def State.perform (s : State) (r : Req) : State :=
  let x := s.effect r
  x.1.respond r (s.homeDie r) x.2

end Sys2Proof.Machine
end

