-- ==== Sys2Proof/Machine/Engine.lean ====
section
/-! DEFINITION. The copy engines (R243 to R259): the next granule of an operation, where its sides lie, when it may be
served (R84, R90, R94, R98, R219, R243), and its request. -/
namespace Sys2Proof.Machine

/-! ### The next granule of an operation -/

/-- A side of a granule: own LM, a virtual address, TS, AS, a peer's LM at an offset, zero bytes, or a value. -/
inductive Side where
  | own (off : Nat)
  | vmem (va : Word)
  | ts (off : Nat)
  | asMem (off : Nat)
  | peer (addr : Word) (off : Nat)
  | zero
  | value (bs : List Byte)
deriving DecidableEq, Repr

/-- A granule of an operation: its bytes, the bytes of its run behind it, its sides, and the operand number of its source
(Table 16.3). -/
structure Chunk where
  len : Nat
  more : Nat
  dst : Side
  src : Side
  srcNo : Nat
deriving DecidableEq, Repr

/-- The address that fixes a destination's granules. -/
def Side.addr : Side → Nat
  | .own o | .ts o | .asMem o | .peer _ o => o
  | .vmem va => va.toNat
  | .zero | .value _ => 0

/-- A side, k bytes on. -/
def Side.shift (x : Side) (k : Nat) : Side :=
  match x with
  | .own o => .own (o + k)
  | .ts o => .ts (o + k)
  | .asMem o => .asMem (o + k)
  | .peer a o => .peer a (o + k)
  | .vmem va => .vmem (va + BitVec.ofNat 64 k)
  | .zero => .zero
  | .value bs => .value (bs.drop k)

/-- A side at LM or at a virtual address, d bytes on. -/
def memSide (lm : Bool) (base : Word) (d : Int) : Side :=
  let x := base + BitVec.ofInt 64 d
  if lm then .own x.toNat else .vmem x

/-- A remote LM address, d bytes on. -/
def peerSide (addr : Word) (d : Nat) : Side := .peer addr (rlOff addr.toNat + d)

/-- A granule: as many of the n bytes left of the run as lie in the destination's granule (R243). -/
def chunk (n : Nat) (dst src : Side) (srcNo : Nat) : Chunk :=
  let k := min n (64 - dst.addr % 64)
  ⟨k, n - k, dst, src, srcNo⟩

/-- The index of element i of a CPYG, or the fault that its read meets (R248). -/
def Ctx.gatherIndex (c : Ctx) (o : Op) (i : Nat) : Except (Nat × Nat) Nat :=
  let off := o.aux.toNat + 4 * i
  if c.lmSize < off + 4 then .error (Code.lmRange, off % 2 ^ 32)
  else
    let bs := overlay o.snap off (markedRead c.lm c.poisonLm off 4)
    if bs.any Prod.snd then .error (Code.poison, poisonDetail 0 (off / 8)) else .ok (leNat (bs.map Prod.fst))

/-- The next granule of a copy, from byte o.next on, in the order of R253; or the fault of a CPYG's index. -/
def Ctx.chunkOf (c : Ctx) (o : Op) : Except (Nat × Nat) Chunk :=
  let len := ctlLen o.ctl
  let p := o.next
  let left := o.total - p
  match o.kind with
  | .cpy | .rcpy =>
    let dst := if o.kind = .rcpy && ctlDsp o.ctl then peerSide o.dst p else memSide (ctlDsp o.ctl) o.dst p
    .ok (chunk left dst (memSide (ctlSsp o.ctl) o.src p) 1)
  | .cpy2 =>
    let r := p / len
    let t := p % len
    let at_ := fun (lo : Nat) => sextInt (recField o.recd lo 8) 64 * r + t
    .ok (chunk (len - t) (memSide (ctlDsp o.ctl) o.dst (at_ 8)) (memSide (ctlSsp o.ctl) o.src (at_ 0)) 1)
  | .cpyt | .cpylt =>
    let ts := Side.ts (256 * bitsOf o.dst.toNat 0 12 + 32 * bitsOf o.dst.toNat 12 3 + p)
    .ok (chunk left ts (memSide (o.kind = .cpylt) o.src p) 1)
  | .cpya => .ok (chunk left (memSide (ctlDsp o.ctl) o.dst p) (.asMem (o.src.toNat + p)) 1)
  | .cpyz => .ok (chunk left (memSide (ctlDsp o.ctl) o.dst p) .zero 1)
  | .cpyg =>
    let el := ctlGsz o.ctl
    match c.gatherIndex o (p / el) with
    | .ok i => .ok (chunk (el - p % el) (.own (o.dst.toNat + p)) (memSide false o.src (el * i + p % el)) 2)
    | .error f => .error f
  | .rst => .ok (chunk left (peerSide o.dst p) (.own (o.src.toNat + p)) 1)
  | .rsts => .ok (chunk left (peerSide o.dst p) (.value ((leBytes 8 o.val.toNat).drop p)) 1)
  | .rget => .ok (chunk left (.own (o.dst.toNat + p)) (peerSide o.src p) 1)
  | .mcast =>
    let t := p % len
    let target := BitVec.ofNat 64 (recField o.recd (8 * (p / len)) 8)
    .ok (chunk (len - t) (peerSide target t) (.own (o.src.toNat + t)) 1)
  | .atom | .fadd | .atomx | .rsig | .ratom => .ok (chunk 0 .zero .zero 0)

/-! ### Targets (R65, R66, R309) -/

/-- Where a peer is: a context of this device, one of it on a die out of service, another device, or nowhere. -/
inductive Peer where
  | here (k : CtxKey)
  | lost (k : CtxKey)
  | there (d : Nat)
  | absent
deriving DecidableEq, Repr

/-- The context of this device that a remote LM address names for an issuer with the given launch (R66, R372). -/
def State.member (s : State) (tract grank : Nat) (addr : Nat) : Peer :=
  match s.ctx ⟨tract, rlTrank addr⟩ with
  | some c =>
    if rlGrank addr != grank then .absent
    else if s.ctxLost c.key then .lost c.key
    else .here c.key
  | none => .absent

/-- Resolves a remote LM address. -/
def State.resolve (s : State) (c : Ctx) (addr : Word) : Peer :=
  let a := addr.toNat
  if !s.devSet then .absent
  else if rlDev a = s.devId then s.member c.key.tract (if c.info.gid = 0 then 0 else c.info.grank) a
  else if c.info.gid = 0 || !s.routeOk (rlDev a) then .absent
  else .there (rlDev a)

/-- Where a side lies: parts of places, a fault with its code and DETAIL, or a translation that is not at hand. -/
inductive Found where
  | parts (ps : List (Place × Nat)) (old : Bool)
  | fault (code detail : Nat)
  | pending
deriving DecidableEq, Repr

/-- Who translates for an operation, and whether it has made a request already. -/
structure Seeker where
  unit : Translator
  asker : Asker
  begun : Bool
deriving DecidableEq, Repr

/-- Finds n bytes at a virtual address within one granule, operand number no (R64, R65, R72). DESIGN CHOICE (assumption 132): where
a register's address is canonical and a later byte of the copy is not, the granule of that byte faults as a copy fault NONCANON. -/
def State.findVa (s : State) (c : Ctx) (u : Seeker) (va : Word) (n : Nat) (need : Need) (no : Nat) : State × Found :=
  let v := va.toNat
  if !canonical va then (s, .fault Code.noncanon no)
  else
    let go := fun (a : Nat) (need : Need) (extra : Nat) =>
      match s.xlate u.unit c.info.asid a need u.asker with
      | (t, .ok pa old) => (t, Found.parts [(.hbm pa, n)] old)
      | (t, .fault code pa) => (t, .fault code (if code = Code.poison then Place.poisonDetail (.hbm pa) else no + extra))
      | (t, .pending) => (t, .pending)
    if !remoteWin v then go (bitsOf v 0 56) need 0
    else if !s.devSet then (s, .fault Code.remoteTarget (winDev v))
    else if winDev v = s.devId then go (bitsOf v 0 47) { need with rem := true } 4
    else if c.info.gid = 0 || !s.routeOk (winDev v) then (s, .fault Code.remoteTarget (winDev v))
    else (s, .parts [(.dev (winDev v) false va, n)] false)

/-- Two findings, one behind the other. -/
def Found.andThen : Found → Found → Found
  | .parts ps o, .parts qs p => .parts (ps ++ qs) (o || p)
  | .parts _ _, f => f
  | f, _ => f

/-- n bytes from an offset on as parts of at most one granule each (R243); n is at most the rest of the granule and one more. -/
def inGranules (n off : Nat) (f : Nat → Place) : List (Place × Nat) :=
  let m := min n (64 - off % 64)
  if m = n then [(f off, n)] else [(f off, m), (f (off + m), n - m)]

/-- Finds n bytes of a side; a source may lie in two granules. A read of a peer that was under way when
the peer's die left service goes on, and finds poison (R369, R378). DESIGN CHOICE (assumption 133): DETAIL of a range fault is the
offset, row or plane of the granule's first byte, also where that lies inside the partition and only later bytes leave it. -/
def State.findSide (s : State) (c : Ctx) (u : Seeker) (x : Side) (n : Nat) (need : Need) (no : Nat) : State × Found :=
  match x with
  | .own off =>
    if c.lmSize < off + n then (s, .fault Code.lmRange (off % 2 ^ 32))
    else (s, .parts (inGranules n off (.lm c.key)) false)
  | .ts off => if c.tsSize < off + n then (s, .fault Code.tsRange (off / 256)) else (s, .parts [(.ts c.key off, n)] false)
  | .asMem off =>
    if c.asSize < off + n then (s, .fault Code.asRange (off / 65536)) else (s, .parts [(.asPlane c.key off, n)] false)
  | .peer addr off =>
    match s.resolve c addr with
    | .here k =>
      match s.ctx k with
      | some t =>
        if t.lmSize < off + n then (s, .fault Code.lmRange (rlDev addr.toNat))
        else (s, .parts (inGranules n off (.lm k)) false)
      | none => (s, .fault Code.remoteTarget (targetDetail addr))
    | .lost k =>
      if u.begun && !need.wr then (s, .parts (inGranules n off (.lm k)) false)
      else (s, .fault Code.remoteTarget (targetDetail addr))
    | .there d =>
      if 2 ^ 21 < off + n then (s, .fault Code.lmRange d)
      else
        (s, .parts (inGranules n off fun x => .dev d true (BitVec.ofNat 64 (addr.toNat / 2 ^ 21 * 2 ^ 21 + x))) false)
    | .absent => (s, .fault Code.remoteTarget (targetDetail addr))
  | .vmem va =>
    let m := min n (64 - va.toNat % 64)
    let r := s.findVa c u va m need no
    if m = n then r
    else
      let q := r.1.findVa c u (va + BitVec.ofNat 64 m) (n - m) need no
      (q.1, r.2.andThen q.2)
  | .zero | .value _ => (s, .parts [] false)

/-! ### What goes on for held LATOMs when issue stops (R47, R137, R231, R347) -/

/-- Some rank of a tract has met a fatal fault: its MMAG steps are abandoned (R231, R347). -/
def State.tractFaulted (s : State) (t : Nat) : Bool := (s.members t).any fun c => c.fatal.isSome

/-- A held LATOM of some rank of a tract waits for an MMAG: the steps of every member go on for it (R230). -/
def State.stepsNeeded (s : State) (t : Nat) : Bool := (s.members t).any Ctx.latomMmag && !s.tractFaulted t

/-- The bundles up to which M instructions of a context go on though issue has stopped. -/
def State.goesUpTo (s : State) (c : Ctx) : Nat := c.reach (if s.stepsNeeded c.key.tract then c.mmagEnd else 0)

/-- A queued M instruction goes on though issue has stopped. -/
def State.entryGoesOn (s : State) (c : Ctx) (m : MEntry) : Bool :=
  decide (m.bundle < s.goesUpTo c) && !(isMmag m.ins && s.tractFaulted c.key.tract)

/-- An operation goes on though issue has stopped. -/
def State.opGoesOn (s : State) (c : Ctx) (o : Op) : Bool := c.opGoesOn (s.goesUpTo c) o

/-- A slice for the running step of a context is on its way. -/
def State.sliceComes (s : State) (c : Ctx) : Bool :=
  (s.members c.key.tract).any fun f => f.mmagOut.any fun x => x.dest == c.key.rank && x.step == c.mmagStep

/-- No M instruction of a context goes on any further by itself: it waits for slices that no member has posted, or for a CPYA that
has been cut; or none is to go on. -/
def State.mBlocked (s : State) (c : Ctx) : Bool :=
  s.ctxLost c.key ||
    match c.mq with
    | m :: _ =>
      !s.entryGoesOn c m ||
        (if m.running then isMmag m.ins && !m.active && !c.slicesIn && !s.sliceComes c else c.headCut)
    | [] => true

/-- The MMAG steps of a tract whose issue has stopped come to no end: a member has faulted, or every member waits for slices that
one which has not come to its MMAG would have to supply (R231). -/
def State.stepsStall (s : State) (t : Nat) : Bool := s.tractFaulted t || (s.members t).all s.mBlocked

/-! ### When an operation may be served -/

/-- Bytes that the read of a granule asks for: those that the operation does not hold yet, and the rest of the last source
word as far as the run goes (R84). -/
def Op.readLen (o : Op) (k : Chunk) : Nat × Nat :=
  let need := k.len - o.carry.length
  (need, min k.more ((8 - (k.src.addr + k.len) % 8) % 8))

/-- The granule meets no busy row or plane (R94, R219), and the index of a CPYG's element is not held back (R90). -/
def Ctx.chunkFree (c : Ctx) (o : Op) (k : Chunk) : Bool :=
  (match k.dst with
    | .ts off => !busyRow (off / 256) o.behind c c.mq
    | _ => true) &&
  (o.kind != .cpyg || !c.latomMeets o.bundle (o.aux.toNat + 4 * (o.next / ctlGsz o.ctl)) 4) &&
  match k.src with
  | .asMem off =>
    let n := k.len + (o.readLen k).2
    (List.range ((off % 65536 + n + 65535) / 65536)).all fun i => !busyPlane (off / 65536 + i) o.behind c c.mq
  | _ => true

/-- What a granule reads of own LM is not held back by a LATOM of an earlier bundle, whichever way the operation names own
LM (R90). -/
def Ctx.ownFree (c : Ctx) (o : Op) (ps : List (Place × Nat)) : Bool :=
  ps.all fun p =>
    match p.1 with
    | .lm k off => k != c.key || !c.latomMeets o.bundle off p.2
    | _ => true

/-- The next granule of an operation reads bytes of own LM that a LATOM held behind an earlier bundle is to write (R90): a
continuation that CPYR has issued behind the LATOM waits for it, as the LATOM waits for the operation (R342). -/
def State.behindLatom (s : State) (c : Ctx) (o : Op) : Bool :=
  match c.chunkOf o with
  | .ok k =>
    let n := k.len + (o.readLen k).2
    (o.kind == .cpyg && c.latomMeets o.bundle (o.aux.toNat + 4 * (o.next / ctlGsz o.ctl)) 4) ||
      match k.src with
      | .own off => c.latomMeets o.bundle off n
      | .peer addr off => s.resolve c addr == .here c.key && c.latomMeets o.bundle off n
      | .vmem _ | .ts _ | .asMem _ | .zero | .value _ => false
  | .error _ => false

/-- A held LATOM of a context is still to land: what it waits for goes on (DEDUCED, assumption 97). -/
def State.latomWaits (s : State) (c : Ctx) : Bool :=
  c.latomRuns && !(c.latomMmag && s.stepsStall c.key.tract) &&
    !c.latom.any fun h => c.ops.any fun o => decide (o.origin ≤ h.bundle) && s.behindLatom c o

/-- An operation has a read, an atomic or a CLP request out: its next granule waits, so that its writes go out in its
own order (R338). -/
def State.busyOp (s : State) (k : CtxKey) (e : Nat) : Bool :=
  let plain := fun (r : Req) => match r.kind, r.place with
    | .write _, .dev .. => false
    | .write _, _ => true
    | _, _ => false
  s.clpOut.any (fun o => o.req.owner == some (k, e)) ||
    s.reqs.any (fun r => r.owner == some (k, e) && !plain r) ||
    s.transit.any fun x => x.req.owner == some (k, e) && !plain x.req

/-- Something of an operation has been done: a request made, a fault met, or all that it has to do. -/
def Op.moved (o : Op) : Bool := o.next != 0 || o.out != 0 || o.allSent || o.fault.isSome || o.cut.isSome

/-- An operation has been started. -/
def Op.started (o : Op) : Bool := o.begun || o.moved

/-- The engine starts a context's operations in issue order (R243), releases apart (R98): those before the one in entry e have
been started when it is served. -/
def Ctx.startUpTo (c : Ctx) (e : Nat) : Ctx :=
  let first := c.ops.takeWhile fun x => x.e != e
  { c with ops := c.ops.map fun (x : Op) =>
      if !x.isRelease && decide (32 ≤ x.e) == decide (32 ≤ e) && first.any fun y => y.e == x.e then { x with begun := true }
      else x }

/-- Tracts whose operations are served: running; ending or about to, those that have been started (R347, R348). While a tract
saves, an operation that no resume record describes goes on to its end. Where issue has stopped, what a held LATOM waits for goes
on as well. -/
def State.tractServes (s : State) (c : Ctx) (o : Op) : Bool :=
  match s.tract c.key.tract with
  | some t =>
    match t.state with
    | .running => c.status != .saved && (t.cause.isNone || o.started || s.opGoesOn c o)
    | .ending => c.status != .saved && o.started
    | .saving => c.status != .saved && (!(opcOf o.kind).isSome || s.opGoesOn c o)
    | .starting | .saved | .complete => false
  | none => false

/-- The engine may go on with an operation, as far as its own state says. -/
def State.opReady (s : State) (c : Ctx) (o : Op) : Bool :=
  s.tractServes c o && o.cut.isNone && (o.fault.isNone || o.kind = .mcast) && !o.allSent && !s.busyOp c.key o.e &&
    (!o.isRelease || s.releases c o.origin (some o.e) o.scope)

/-! ### Serving -/

/-- A fault at the engine itself. An MCAST goes on with its next target (R338). -/
def State.engineFault (s : State) (c : Ctx) (o : Op) (code detail : Nat) : State :=
  s.modCtx c.key fun x => x.modOp o.e fun y =>
    { y.stopAt y.next with fault := some (y.fault.getD (x.copyReport y code detail)), sent := true }

/-- A request of an operation. -/
def Ctx.reqOf (c : Ctx) (o : Op) (p : Place) (old : Bool) (kind : ReqKind) : Req :=
  ⟨some (c.key, o.e), none, c.site / 64, o.next, c.express, decide (32 ≤ o.e), old, false, false, false, false, c.key.tract, p,
    kind⟩

/-- Who translates for an operation. -/
def Ctx.seeker (c : Ctx) (o : Op) : Seeker :=
  ⟨.engine c.site (decide (32 ≤ o.e)), .op c.key o.e o.bundle, o.moved⟩

/-- A translation that is not at hand: none where it had been asked for already. -/
def State.asked (s t : State) : Option State := if t.dies = s.dies then none else some t

/-- The request of a granule of k.len bytes goes out. -/
def State.sendChunk (s : State) (c : Ctx) (o : Op) (k : Chunk) (r : Req) : State :=
  (s.modOp c.key o.e fun y => { y with next := y.next + k.len, out := y.out + 1, carry := [] }).post r

/-- The bytes that a granule takes from no memory: zeros, a value, or what the operation has read already (R84). -/
def Op.ready (o : Op) (k : Chunk) : Option (List Marked) :=
  match k.src with
  | .value v => some (clean (v.take k.len))
  | .zero => some (clean (List.replicate k.len 0))
  | _ => if k.len ≤ o.carry.length then some (o.carry.take k.len) else none

/-- A granule of a CPYA: its bytes of AS, which does not lie behind the LM port (Table 4.1), are read as its write goes out. -/
def State.readPlane (s : State) (c : Ctx) (o : Op) (k : Chunk) (dp sp : Place) (m : Nat) (old : Bool) : State :=
  let got := s.readPlace (c.reqOf o sp old (.write [])) m
  let xs := o.carry ++ got
  (s.sendChunk c o k (c.reqOf o dp old (.write (xs.take k.len)))).modOp c.key o.e fun y =>
    { y with taken := y.taken + m, carry := xs.drop k.len }

/-- Reads a granule's source and writes it to dp. -/
def State.readChunk (s : State) (c : Ctx) (o : Op) (k : Chunk) (dp : Place) (old : Bool) : Option State :=
  let n := o.readLen k
  match s.findSide c (c.seeker o) (k.src.shift o.carry.length) (n.1 + n.2) ⟨true, false, false, false⟩ k.srcNo with
  | (t, .fault code d) => some (t.engineFault c o code d)
  | (t, .pending) => s.asked t
  | (t, .parts [(.asPlane a off, m)] old2) => some (t.readPlane c o k dp (.asPlane a off) m (old || old2))
  | (t, .parts ((sp, m) :: rest) old2) =>
    if c.ownFree o ((sp, m) :: rest) then
      some (t.sendChunk c o k (c.reqOf o sp (old || old2) (.read m rest o.carry (some dp) n.2)))
    else none
  | (_, .parts [] _) => none

/-- Serves the next granule of a copy; none where nothing moves. -/
def State.serveCopy (s : State) (c : Ctx) (o : Op) : Option State :=
  match c.chunkOf o with
  | .error (code, d) => some (s.engineFault c o code d)
  | .ok k =>
    if !c.chunkFree o k then none
    else
      match s.findSide c (c.seeker o) k.dst k.len ⟨false, true, false, false⟩ 0 with
      | (t, .fault code d) => some (t.engineFault c o code d)
      | (t, .pending) => s.asked t
      | (t, .parts ((dp, _) :: _) old) =>
        match o.ready k with
        | some xs => some (t.sendChunk c o k (c.reqOf o dp old (.write xs)))
        | none => t.readChunk c o k dp old
      | (_, .parts [] _) => none

/-- Sends an atomic to its home: a virtual address, or a peer's LM. -/
def State.serveAtomic (s : State) (c : Ctx) (o : Op) (n : Nat) (kind : ReqKind) : Option State :=
  let side := if o.kind = .ratom then peerSide o.dst 0 else Side.vmem o.dst
  match s.findSide c (c.seeker o) side n ⟨true, true, true, false⟩ 0 with
  | (t, .fault code d) => some (t.engineFault c o code d)
  | (t, .pending) => s.asked t
  | (t, .parts ((p, m) :: _) old) =>
    if c.ownFree o [(p, m)] then
      some ((t.modOp c.key o.e fun y => { y with sent := true, out := 1 }).post (c.reqOf o p old kind))
    else none
  | (_, .parts [] _) => none

/-- RSIG (R257): an increment at a semaphore unit of this device, or a signal to another device. -/
def State.serveSignal (s : State) (c : Ctx) (o : Op) : Option State :=
  let addr := o.dst
  let go := fun (p : Place) =>
    some ((s.modOp c.key o.e fun y => { y with sent := true, out := 1 }).post
      (c.reqOf o p false (.signal (o.val.truncate 32))))
  match s.resolve c addr with
  | .absent | .lost _ => some (s.engineFault c o Code.remoteTarget (targetDetail addr))
  | .there d => go (.dev d true addr)
  | .here k =>
    match s.ctx k with
    | some t =>
      let i := bitsOf addr.toNat 0 8
      if t.part.sem * 32 ≤ i then some (s.engineFault c o Code.semRange i) else go (.sem k i)
    | none => none

/-- The next request of an operation that may be served; none where nothing moves. -/
def State.serveNext (s : State) (c : Ctx) (o : Op) : Option State :=
  match o.kind with
  | .atom | .ratom => s.serveAtomic c o (atomBytes o.ty) (.atomic o.ty o.aop o.val o.expd)
  | .fadd => s.serveAtomic c o 4 (.fadd (o.val.truncate 32))
  | .atomx => s.serveAtomic c o 64 (.atomx (ctlLen o.ctl) o.recd)
  | .rsig => s.serveSignal c o
  | _ => s.serveCopy c o

/-- What the turn of an operation means beside its request: of a release, that the loads which it covers have their values, and
that what happens before it may happen before other releases (R97, R98); of any other, that the operations before it have been
started (R243). -/
def State.takeTurn (s : State) (c : Ctx) (o : Op) : State :=
  if o.isRelease then (s.modCtx c.key Ctx.settleLoads).spreadFrom c.key o.scope
  else s.modCtx c.key fun x => x.startUpTo o.e

/-- Serves an operation once; none where nothing moves. -/
def State.serveOp (s : State) (c : Ctx) (o : Op) : Option State :=
  if s.opReady c o then (s.takeTurn c o).serveNext c o else none

/-- Express operations of the same engine come first (R243). -/
def State.expressWaits (s : State) (c : Ctx) (remote : Bool) : Bool :=
  !c.express && s.ctxs.any fun x => x.site == c.site && x.express &&
    x.ops.any fun o => decide (32 ≤ o.e) == remote && (s.serveOp x o).isSome

/-- Serves the operation in entry e of context k, behind express ones. -/
def State.serve (s : State) (k : CtxKey) (e : Nat) : Option State :=
  match s.ctx k with
  | some c =>
    match c.op e with
    | some o => if s.expressWaits c (decide (32 ≤ e)) then none else s.serveOp c o
    | none => none
  | none => none

end Sys2Proof.Machine
end

