-- ==== Sys2Proof/Machine/Links.lean ====
section
/-! DEFINITION. Arbiters (R82, R294, Table 3.16) and the die links (R19, R366 to R369): which crossing an edge grants, how
it moves on, and what becomes of the crossings when a route changes or a die leaves service. -/
namespace Sys2Proof.Machine

/-! ### Arbiters (Table 3.16) -/

/-- Granules charged to a tract in a window. -/
def spentOf (xs : List (Nat × Nat)) (t : Nat) : Nat := ((xs.find? fun p => p.1 = t).map Prod.snd).getD 0

/-- Charges n granules. -/
def charge (xs : List (Nat × Nat)) (t n : Nat) : List (Nat × Nat) := (t, spentOf xs t + n) :: xs.filter fun p => p.1 != t

/-- What an arbiter could grant: its place in the list it stands in, its tract and class, the granules charged for it, and
whether its budget admits it. -/
structure Bid where
  i : Nat
  tract : Nat
  express : Bool
  cost : Nat
  inBudget : Bool
deriving DecidableEq, Repr

/-- A bulk request within budget. -/
def Bid.isBulk (b : Bid) : Bool := !b.express && b.inBudget

/-- The least number of a list. -/
def least : List Nat → Option Nat
  | [] => none
  | x :: xs => some (xs.foldl min x)

/-- The tract whose turn it is: the first behind the one served last, in ascending number and wrapping. -/
def turnTract (turn : Nat) (ts : List Nat) : Option Nat :=
  match least (ts.filter fun t => decide (turn < t)) with
  | some t => some t
  | none => least ts

/-- The bid that an arbiter grants, of bids in order of age: the n-th of the tract whose turn it is, the oldest where there are
not so many, and rules 2 to 4 of Table 3.16 between it and the oldest express one. DESIGN CHOICE (assumption 117): the round-robin
of rule 3 goes by ascending tract number, and of the tract whose turn it is the oldest request goes, unless the agenda names
another at a die link. -/
def Arb.pick (a : Arb) (xs : List Bid) (n : Nat) : Option Bid :=
  let bulk := xs.filter Bid.isBulk
  let own := bulk.filter fun b => some b.tract == turnTract a.turn (bulk.map Bid.tract)
  let b := match own[n]? with
    | some b => some b
    | none => own.head?
  match xs.find? Bid.express, b with
  | some x, some y => some (if 15 ≤ a.exprRun then y else x)
  | some x, none => some x
  | none, y => y

/-- An arbiter after a grant: the run of express grants counts while a bulk request within budget waits. -/
def Arb.grant (a : Arb) (xs : List Bid) (b : Bid) : Arb :=
  if b.express then { a with exprRun := if xs.any Bid.isBulk then a.exprRun + 1 else 0 }
  else { exprRun := 0, turn := b.tract, spent := if b.cost = 0 then a.spent else charge a.spent b.tract b.cost }

/-! ### Requests at an arbiter -/

/-- Bytes that a request touches at its place. DESIGN CHOICE (assumption 140): a semaphore signal, which touches no granule of
memory, is charged one at a die link (R294). -/
def Req.bytes (r : Req) : Nat :=
  match r.kind with
  | .read n _ _ _ _ => n
  | .write d => d.length
  | .atomic t .. => atomBytes t
  | .fadd _ => 4
  | .atomx .. => 64
  | .signal _ => 1

/-- The space of a place, and the byte of it. -/
def Place.spot : Place → Place × Nat
  | .hbm pa => (.hbm 0, pa)
  | .lm k off => (.lm k 0, off)
  | .ts k off => (.ts k 0, off)
  | .asPlane k off => (.asPlane k 0, off)
  | .sem k i => (.sem k 0, 64 * i)
  | .dev d l addr => (.dev d l 0, addr.toNat)

/-- Granules that a request touches. -/
def Req.granules (r : Req) : Nat := (r.place.spot.2 % 64 + r.bytes + 63) / 64

/-- Two requests touch one granule. -/
def Req.touches (r x : Req) : Bool :=
  r.place.spot.1 == x.place.spot.1 && meets (r.place.spot.2 / 64) r.granules (x.place.spot.2 / 64) x.granules

/-- Two requests of one agent: a copy engine on behalf of one context, or another device (R83). -/
def Req.sameAgent (r x : Req) : Bool :=
  r.owner.map Prod.fst == x.owner.map Prod.fst && r.remote == x.remote && r.ans.map Prod.fst == x.ans.map Prod.fst

/-- BF of the die on which a request's context runs, against the one charge of its tract; a peer's request has no budget (R294).
DESIGN CHOICE (assumption 107): R294 says "the tract's die"; of a tract with sites on several dies each request is bounded by BF of
its own context's die. -/
def State.bfOf (s : State) (r : Req) : Nat :=
  match r.owner with
  | some (k, _) =>
    match s.ctx k with
    | some c => (s.die (c.site / 64)).bf
    | none => 64
  | none => 64

/-- The bid of a request in place i of a list, at an arbiter of a full rate. Express requests and those of other devices are
not charged; free says that what stands there is no request. -/
def State.bidOf (s : State) (a : Arb) (rate i : Nat) (r : Req) (free : Bool) : Bid :=
  let cost := if r.express || r.owner.isNone || free then 0 else r.granules
  ⟨i, r.tract, r.express, cost, cost = 0 || decide (spentOf a.spent r.tract + cost ≤ s.bfOf r * rate / 64)⟩

/-! ### Die links (R19, R366) -/

/-- The full rate of one direction of an edge, in granules per window (R366). -/
def Edge.rate (e : Edge) : Nat := 31250 * e.wid / 8

/-- The arbiter of one direction of an edge. -/
def Edge.arb (e : Edge) (cw : Bool) : Arb := if cw then e.arbA else e.arbB

/-- Changes the arbiter of one direction of an edge. -/
def Edge.setArb (e : Edge) (cw : Bool) (a : Arb) : Edge := if cw then { e with arbA := a } else { e with arbB := a }

/-- The die at which one direction of an edge ends. -/
def edgeEnd (e : Nat) (cw : Bool) : Nat := if cw then (e + 1) % 4 else e

/-- The edge that a crossing needs next, and whether clockwise. -/
def State.nextHop (s : State) (x : Crossing) : Option (Nat × Bool) :=
  (s.path x.start x.goal).bind fun p => p.find? fun e => edgeEnd e.1 (!e.2) == x.die

/-- What a crossing carries is a request, and not a response. -/
def Cargo.asks : Cargo → Bool
  | .ask | .turned _ => true
  | .data _ | .old _ | .ack | .fail .. | .gone => false

/-- A crossing stands behind an earlier one: the two are requests on the same link, to one granule, or of one agent towards
one die (R88; DEDUCED, assumption 96). -/
def State.crossesBehind (s : State) (x y : Crossing) : Bool :=
  x.cargo.asks && y.cargo.asks && s.nextHop x == s.nextHop y &&
    (x.req.touches y.req || (x.req.sameAgent y.req && x.goal == y.goal))

/-- The crossings that one direction of an edge could grant, as bids. A response is not charged: R294 charges requests
(DEDUCED, assumption 37). -/
def State.linkBids (s : State) (e : Nat) (cw : Bool) : List Bid :=
  let xs := s.transit.zipIdx.filter fun p =>
    s.nextHop p.1 == some (e, cw) && s.pathSynced p.1.start p.1.goal &&
      !(s.transit.take p.2).any fun y => s.crossesBehind p.1 y
  xs.map fun p => s.bidOf ((s.edge e).arb cw) (s.edge e).rate p.2 p.1.req (!p.1.cargo.asks)

/-- A request that left by a port reaches it: it goes out by the route under which it was made (R309), or is given up where
the port is down (R375). -/
def State.atExit (s : State) (x : Crossing) (d : Nat) (isLm : Bool) (addr : Word) : State :=
  let route := x.route.getD (s.routeTo d)
  if s.portState route.1 = 2 then s.respond x.req x.goal .gone else s.send x.req route d isLm addr

/-- A request at the die that it went to, which is its home: no context changes its home while a request to it is on its way
(DESIGN CHOICE, assumption 131). -/
def State.arrived (s : State) (x : Crossing) : State :=
  match x.req.place with
  | .dev d isLm addr => s.atExit x d isLm addr
  | _ => s.reach x.req x.goal

/-- A crossing is at its goal. -/
def State.landed (s : State) (x : Crossing) : State :=
  match x.cargo with
  | .ask => s.arrived x
  | .turned detail => s.respond x.req x.goal (.fail Code.remoteTarget detail)
  | c => s.response x.req c

/-- One grant of an edge's arbiter, to the n-th crossing of the tract whose turn it is: the crossing moves by one die. None
while the edge is not up, or nothing can be granted. -/
def State.linkServe (s : State) (e : Nat) (cw : Bool) (n : Nat) : Option State :=
  let bids := s.linkBids e cw
  if (s.edge e).st != 0 then none
  else
    match ((s.edge e).arb cw).pick bids n with
    | some b =>
      match s.transit[b.i]? with
      | some x =>
        let y := { x with die := edgeEnd e cw }
        let t := s.modEdge e fun g => g.setArb cw ((g.arb cw).grant bids b)
        some (if y.die = y.goal then ({ t with transit := t.transit.eraseIdx b.i } : State).landed y
          else { t with transit := t.transit.set b.i y })
      | none => none
    | none => none

/-- Some edge can move a crossing: the first one does. -/
def State.linkMove (s : State) : Option State :=
  (List.range 8).findSome? fun i => s.linkServe (i / 2) (i % 2 == 0) 0

/-! ### Changes of routes (R368 to R372) -/

/-- The crossings of the pairs whose route an edge was part of set out again, in their order (R368). -/
def State.resend (s : State) (e : Nat) : State :=
  { s with
    transit := s.transit.map fun (x : Crossing) =>
      if (ringPath x.start x.goal).any fun p => p.1 == e then { x with die := x.start } else x }

/-- A crossing after a die has left service. What a lost die has asked for is abandoned (R373). A request towards a die in
service sets out again, and one towards a lost die finds storage beyond reach. A response that had not arrived leaves its
read poisoned, and what is no read faults (R369, R372). -/
def State.rescue (s : State) (x : Crossing) : State :=
  let again := fun (y : Crossing) => { s with transit := s.transit ++ [y] }
  if !(s.die x.req.src).inService then s
  else if x.cargo.asks then
    if (s.die x.goal).inService then again { x with die := x.req.src, start := x.req.src } else s.landed x
  else if (s.die x.start).inService then again { x with die := x.start }
  else s.lostResponse x.req

/-- The crossings after a die has left service, in their order. -/
def State.sweep (s : State) : State := s.transit.foldl State.rescue { s with transit := [] }

end Sys2Proof.Machine
end

