-- ==== Sys2Proof/Machine/EvMemory.lean ====
section
/-! DEFINITION. Events of the memory side (R58, R73, R78, R82, R98 to R103, R243, R251, R337 to R342): serving copies,
ports and channels, atomics at their homes, walks, messages of other devices, and the end of an operation. An event
that nothing enables changes nothing. -/
namespace Sys2Proof.Machine
open Host

/-- The next state of an event that may not be enabled. -/
def orStay (s : State) (t : Option State) : Outcome State Fault Refusal := .next (t.getD s)

/-- COPY_REQUEST_SERVE (R243): an engine serves the next granule of an operation that is no release. -/
def execCopyRequestServe (k : CtxKey) (e : Nat) (s : State) : Outcome State Fault Refusal :=
  orStay s (match (s.ctx k).bind fun c => c.op e with
    | some o => if o.isRelease then none else s.serve k e
    | none => none)

/-! ### Ports and channels -/

/-- Removes a request and performs it. -/
def State.performAt (s : State) (i : Nat) : Option State :=
  match s.reqs[i]? with
  | some r => some ({ s with reqs := s.reqs.eraseIdx i }.perform r)
  | none => none

/-- The context whose LM a place is. TS, AS and semaphores do not lie behind the LM port (Table 4.1). -/
def Place.owner : Place → Option CtxKey
  | .lm k _ => some k
  | .ts .. | .asPlane .. | .sem .. | .hbm _ | .dev .. => none

/-- A place lies behind the LM port of a site; the image of a SAVED context is served by whichever site asks. -/
def State.atPort (s : State) (site : Nat) (p : Place) : Bool :=
  match p.owner with
  | some k => (s.ctx k).any fun c => c.site == site
  | none => false

/-- A request to LM that is an atomic. -/
def Req.isAtomic (r : Req) : Bool :=
  match r.kind with
  | .atomic .. | .fadd _ | .atomx .. => true
  | .read .. | .write _ | .signal _ => false

/-- The oldest request of a copy engine at a site's LM port. -/
def State.portFirst (s : State) (site : Nat) (remote : Bool) : Option Nat :=
  s.reqs.findIdx? fun r => r.remote == remote && s.atPort site r.place

/-- The request that a site's port serves next: the global engine's oldest, then the remote engine's, unless the remote
engine has waited three V-cycles (R58). DESIGN CHOICE (assumption 73): where both engines have waited so long, the spec does
not say which takes the cycle; the one that has waited longer does here, the remote engine where neither has. -/
def State.portPick (s : State) (site : Nat) : Option Nat :=
  let x := s.site site
  let q := s.portFirst site false
  let n := s.portFirst site true
  if decide (3 ≤ x.waitN) && n.isSome && (decide (x.waitQ ≤ x.waitN) || q.isNone) then n else if q.isSome then q else n

/-- The request in place i is such a one. -/
def State.reqIs (s : State) (i : Nat) (f : Req → Bool) : Bool :=
  match s.reqs[i]? with
  | some r => f r
  | none => false

/-- A copy engine has been served by the port: its wait ends (R58). -/
def Site.portServed (x : Site) (remote : Bool) : Site :=
  if remote then { x with waitN := 0, servedN := true } else { x with waitQ := 0, servedQ := true }

/-- The port of a site serves the request whose turn it is, if f admits it. -/
def State.portServe (s : State) (site : Nat) (f : Req → Bool) : Option State :=
  match s.portPick site with
  | some i =>
    if s.reqIs i f then
      let rem := s.reqIs i fun r => r.remote
      (s.performAt i).map fun t => t.modSite site fun x => x.portServed rem
    else none
  | none => none

/-- LM_PORT_SERVE (R58): the port serves a copy engine's read or write. -/
def execLmPortServe (site : Nat) (s : State) : Outcome State Fault Refusal :=
  orStay s (s.portServe site fun r => !r.isAtomic)

/-- Requests at a channel that no earlier request to the same granule precedes, with their places in the list
(Table 3.16, rule 1). -/
def State.eligible (s : State) (ch : Nat) : List (Nat × Req) :=
  let here := fun (r : Req) => match r.place with
    | .hbm pa => paChan pa == ch
    | _ => false
  let rs := s.reqs.zipIdx.filter fun p => here p.1
  (rs.filter fun x => !rs.any fun y => decide (y.2 < x.2) && y.1.touches x.1).map fun x => (x.2, x.1)

/-- The bids at a channel, whose full rate is 1250 granules (R294). -/
def State.chanBids (s : State) (ch : Nat) : List Bid :=
  (s.eligible ch).map fun p => s.bidOf (s.chan ch).arb 1250 p.1 p.2 false

/-- Corrected errors are counted and change nothing else (R376). -/
def Chan.corrected (x : Chan) (e : Bool) : Chan := { x with ce := (x.ce + e.toNat) % 2 ^ 32 }

/-- A channel serves the request whose turn it is, if f admits its kind. Whether that met a corrected error is a free
value (assumption 71). -/
def State.channelServe (s : State) (ch : Nat) (f : Req → Bool) : Option State :=
  let bids := s.chanBids ch
  match (s.chan ch).arb.pick bids 0 with
  | some b =>
    if s.reqIs b.i f then
      (s.performAt b.i).map fun t =>
        { t.modChan ch fun x => ({ x with arb := x.arb.grant bids b } : Chan).corrected (Config.correctedError t.fresh) with
          fresh := t.fresh + 1 }
    else none
  | none => none

/-- A request that runs a routine. -/
def Req.isAtomx (r : Req) : Bool :=
  match r.kind with
  | .atomx .. => true
  | _ => false

/-- CHANNEL_SERVE (R82): a read or a write. -/
def execChannelServe (ch : Nat) (s : State) : Outcome State Fault Refusal :=
  orStay s (s.channelServe ch fun r => !r.isAtomic)

/-- The port of a context serves an atomic when its turn comes (R58, R102). -/
def State.portAtomic (s : State) (k : CtxKey) : Option State :=
  match s.ctx k with
  | some c => s.portServe c.site fun r => r.isAtomic && r.place.owner == some k
  | none => none

/-- ATOMIC_PERFORM (R102, R103). -/
def execAtomicPerform (h : AtomHome) (s : State) : Outcome State Fault Refusal :=
  orStay s (match h with
    | .channel ch => s.channelServe ch fun r => r.isAtomic && !r.isAtomx
    | .lm k => s.portAtomic k)

/-- ATOMX_ROUTINE_RUN (R251, R252): the line is locked, the routine run, and the line written, as one event. -/
def execAtomxRoutineRun (ch : Nat) (s : State) : Outcome State Fault Refusal :=
  orStay s (s.channelServe ch Req.isAtomx)

/-! ### Walks and invalidation -/

/-- WALK_READ_RETURN (R73). -/
def execWalkReadReturn (die w : Nat) (s : State) : Outcome State Fault Refusal := .next (s.walkStep die w)

/-- INVALIDATION_COMPLETE (R78): BUSY falls and SEQ advances. -/
def execInvalidationComplete (s : State) : Outcome State Fault Refusal :=
  .next (if s.invDone then
    { s.invalidate s.invctl s.invAt with invBusy := false, invSeq := s.invSeq + 1 } else s)

/-! ### Messages of other devices (R65, R66) -/

/-- The tract of a group's member on this device, while it has not completed (R35). -/
def State.groupTract (s : State) (gid : Word32) : Option Ctx :=
  if gid = 0 then none else s.ctxs.find? fun c => c.info.gid == gid

/-- What a peer's operation needs of a leaf: REM beside the permissions of R72. -/
def clpNeed : ClpOp → Need
  | .read _ => ⟨true, false, false, true⟩
  | .write _ => ⟨false, true, false, true⟩
  | .atomic .. | .fadd _ | .atomx .. => ⟨true, true, true, true⟩
  | .signal _ => ⟨false, true, false, true⟩

/-- The request that a peer's operation makes here. -/
def clpKind : ClpOp → ReqKind
  | .read n => .read n [] [] none 0
  | .write d => .write d
  | .atomic t op v x => .atomic t op v x
  | .fadd v => .fadd v
  | .atomx n r => .atomx n r
  | .signal k => .signal k

/-- Bytes that a peer's operation touches. -/
def clpBytes : ClpOp → Nat
  | .read n => n
  | .write d => d.length
  | .atomic t .. => atomBytes t
  | .fadd _ => 4
  | .atomx .. => 64
  | .signal _ => 0

/-- A peer's request at a place of this device, from the die whose port it came by. -/
def peerReq (die src tag : Nat) (old : Bool) (p : Place) (op : ClpOp) : Req :=
  ⟨none, some (src, tag), die, 0, false, true, old, false, false, false, false, 0, p, clpKind op⟩

/-- A message of the inbox has been dealt with. -/
def State.unqueue (s : State) (m : ClpMsg) : State := { s with inbox := s.inbox.erase m }

/-- A message waits in the inbox, in its order of arrival. -/
def State.keepMsg (s : State) (m : ClpMsg) : State := if s.inbox.contains m then s else { s with inbox := s.inbox ++ [m] }

/-- An earlier request of the same device waits in the inbox: each path keeps its order (R88). -/
def State.msgBehind (s : State) (m : ClpMsg) (src : Nat) : Bool :=
  (s.inbox.takeWhile fun x => x != m).any fun x => match x with
    | .vaRequest _ y .. => y == src
    | _ => false

/-- A remote-window request from another device; it waits in the inbox while a walk runs (R65, R76). -/
def State.vaArrives (s : State) (m : ClpMsg) (die src tag : Nat) (gid : Word32) (va : Word) (op : ClpOp) : State :=
  match s.groupTract gid with
  | none => (s.unqueue m).answer (src, tag) [] Code.remoteTarget s.devId
  | some c =>
    if s.msgBehind m src then s.keepMsg m
    else
      match s.xlate (.port die) c.info.asid (bitsOf va.toNat 0 47) (clpNeed op) (.msg m) with
      | (t, .ok pa old) => (t.unqueue m).post (peerReq die src tag old (.hbm pa) op)
      | (t, .fault code pa) =>
        (t.unqueue m).answer (src, tag) [] code (if code = Code.poison then Place.poisonDetail (.hbm pa) else 4)
      | (t, .pending) => t.keepMsg m

/-- A request to the LM or a semaphore of a context of this device from another device (R35, R48, R66). -/
def State.lmArrives (s : State) (die src tag : Nat) (gid : Word32) (addr : Word) (op : ClpOp) : State :=
  let a := addr.toNat
  let absent := s.answer (src, tag) [] Code.remoteTarget (targetDetail addr)
  match s.groupTract gid with
  | none => absent
  | some c =>
    match if rlDev a = s.devId then s.member c.key.tract c.info.grank a else .absent with
    | .here k =>
      match s.ctx k with
      | some t =>
        match op with
        | .signal _ =>
          let i := bitsOf a 0 8
          if t.part.sem * 32 ≤ i then s.answer (src, tag) [] Code.semRange i
          else s.post (peerReq die src tag false (.sem k i) op)
        | _ =>
          if t.lmSize < rlOff a + clpBytes op then s.answer (src, tag) [] Code.lmRange s.devId
          else s.post (peerReq die src tag false (.lm k (rlOff a)) op)
      | none => absent
    | _ => absent

/-- The operand number that an issuer reports for a request (Table 16.3). -/
def State.operandOf (s : State) (r : Req) : Nat :=
  match r.kind, (r.owner.bind fun p => (s.ctx p.1).bind fun c => c.op p.2) with
  | .read .., some o => if o.kind = .cpyg then 2 else 1
  | .read .., none => 1
  | _, _ => 0

/-- A fault answered by another device, as the issuer reports it. -/
def State.answerDetail (s : State) (r : Req) (code detail : Nat) : Nat :=
  if code = Code.notMapped || code = Code.malformed || code = Code.perm then s.operandOf r + 4 else detail

/-- What another device's answer brings to the die that asked. -/
def State.answerCargo (s : State) (r : Req) (data : List Marked) (code detail : Nat) : Cargo :=
  if code != 0 then .fail code (s.answerDetail r code detail)
  else
    match r.kind with
    | .read n _ _ _ _ => .data (fitTo n data)
    | .write _ | .signal _ => .ack
    | .atomic .. | .fadd _ | .atomx .. => .old (data.map Prod.fst)

/-- Another device has answered a request, at the port by which it left. -/
def State.answered (s : State) (o : ClpOut) (data : List Marked) (code detail : Nat) : State :=
  s.respond o.req (o.port / 4) (s.answerCargo o.req data code detail)

/-- REMOTE_ARRIVAL (R65, R66): a message from another device. The last member of a group has completed: it is matched no
longer (R35; DEDUCED, assumption 100). -/
def execRemoteArrival (m : ClpMsg) (s : State) : Outcome State Fault Refusal :=
  .next (match m with
    | .vaRequest die src tag gid va op => s.vaArrives m die src tag gid va op
    | .lmRequest die src tag gid addr op => s.lmArrives die src tag gid addr op
    | .answer tag data code detail =>
      match s.clpOut.find? fun o => o.tag = tag with
      | some o => { s with clpOut := s.clpOut.filter fun x => x.tag != tag }.answered o data code detail
      | none => s
    | .news gid => { s with agenda := .event (.peerEndNews gid) :: s.agenda }
    | .groupDone gid => { s with groups := s.groups.filter fun g => g.gid != gid.toNat })

/-! ### The end of an operation -/

/-- An operation whose every access has been performed (R99). -/
def Op.finished (o : Op) : Bool := o.doneAt .dom

/-- COPY_COMPLETE (R99, R244): the entry frees and the increment is performed. -/
def execCopyComplete (k : CtxKey) (e : Nat) (s : State) : Outcome State Fault Refusal :=
  orStay s (match s.ctx k with
    | some c =>
      match c.op e with
      | some o =>
        if o.finished && c.status != .saved then
          let t := s.modCtx k fun x => x.dropOp e
          some (if o.kind = .rsig then t else t.semAddAt k (ctlSem o.ctl) (ctlInc o.ctl))
        else none
      | none => none
    | none => none)

/-- The FAULT value of a report with RCV set (Table 10.8, CAUSE). -/
def causeOf (r : Report) : Nat := (setBit (reportInto 0 r) 49 true).toNat

/-- What a cut leaves in its context (R339): a mark on the semaphore, and the report. A cut behind the EXIT ends the tract
(R342). -/
def Ctx.cutOp (c : Ctx) (o : Op) (r : Report) : Ctx :=
  let c1 := ((c.semMark (ctlSem o.ctl) (· + 1)).modOp o.e fun y => { y with cut := some r }).report r
  if c.status = .exited then c1.fatalReport (cutAtExit [o]) else c1

/-- A cut (R339): the resume record goes into the resume area, and the context takes note. -/
def State.cutOp (s : State) (c : Ctx) (o : Op) (r : Report) : State :=
  let rec_ := resumeRecord o.kind o.dst o.src o.ctl o.aux o.next o.recd (causeOf r)
  (s.lmPut c.key (c.lmSize - 8192 + 128 * o.e) (clean rec_)).modCtx c.key fun x => x.cutOp o r

/-- COPY_CUT (R337, R339): every byte below DONE has been performed. -/
def execCopyCut (k : CtxKey) (e : Nat) (s : State) : Outcome State Fault Refusal :=
  orStay s (match s.ctx k with
    | some c =>
      match c.op e with
      | some o =>
        match o.fault with
        | some r =>
          if r.cls = 3 && o.out = 0 && o.cut.isNone && c.status != .saved then some (s.cutOp c o r) else none
        | none => none
      | none => none
    | none => none)

/-- COPY_FATAL (R337, R338): the writes sent are performed, for an MCAST those of every other target; the entry frees
with no increment, and the tract ends. -/
def execCopyFatal (k : CtxKey) (e : Nat) (s : State) : Outcome State Fault Refusal :=
  orStay s (match s.ctx k with
    | some c =>
      match c.op e with
      | some o =>
        match o.fault with
        | some r =>
          if r.cls = 4 && o.out = 0 && (o.kind != .mcast || o.allSent) && c.status != .saved then
            some (s.modCtx k fun x => ((x.dropOp e).fails o.origin).fatalReport r)
          else none
        | none => none
      | none => none
    | none => none)

/-! ### Releases (R98) -/

/-- A queued SIG may perform its increment: a release once what happens before it is performed (R98), each behind every
earlier one on its semaphore (R164). -/
def State.sigReady (s : State) (c : Ctx) (i : Nat) (r : Release) : Bool :=
  c.status != .saved && (c.rels.take i).all (fun x => x.sem != r.sem) && (!r.covers || s.releases c r.bundle none r.scope)

/-- A queued SIG performs its increment; the loads that a release covers have their values (R98). -/
def State.performRelease (s : State) (k : CtxKey) (c : Ctx) (i : Nat) : Option State :=
  match c.rels[i]? with
  | some r =>
    if s.sigReady c i r then
      let t := if r.covers then s.spreadFrom k r.scope else s
      some ((t.modCtx k fun x =>
        let y := { x with rels := x.rels.eraseIdx i }
        if r.covers then y.settleLoads else y).semAddAt k r.sem r.inc)
    else none
  | none => none

/-- RELEASE_PERFORM (R98): release i of a context, the queued SIGs first and then the operations that release. -/
def execReleasePerform (k : CtxKey) (i : Nat) (s : State) : Outcome State Fault Refusal :=
  orStay s (match s.ctx k with
    | some c =>
      if i < c.rels.length then s.performRelease k c i
      else
        match c.ops[i - c.rels.length]? with
        | some o => if o.isRelease then s.serve k o.e else none
        | none => none
    | none => none)

end Sys2Proof.Machine
end

