-- ==== Sys2Proof/Machine/EvIssue.lean ====
section
/-! DEFINITION. Events of issue: results that land early, held waits that may retire, SYS replies, held LATOMs, replays
and the windows of EXPCAP (R7, R45, R100, R101, R162, R166, R170, R241, R299). -/
namespace Sys2Proof.Machine
open Host

/-- Result i in flight lands. A load older than a load that lands has been performed (R89). -/
def Ctx.landNth (c : Ctx) (i : Nat) : Ctx :=
  match c.inflight[i]? with
  | some e =>
    let older := if e.load.isSome then (c.inflight.take i).map InFlight.settle else c.inflight.take i
    if e.held then c else { c with inflight := older ++ c.inflight.drop (i + 1) }.landOne e
  | none => c

/-- RESULT_LAND (R7): result i in flight lands before its bound; the results before it for the same destination have
been discarded by R136. -/
def execResultLand (k : CtxKey) (i : Nat) (s : State) : Outcome State Fault Refusal :=
  .next (s.modCtx k fun c => c.landNth i)

/-! ### Waits that hold a bundle (R37, R49) -/

/-- A WAITING context whose held instruction, run by itself, holds no more, is in RUN: its bundle is offered again and
the wait retires in it. f runs the held instruction, if it is of the kind the event names. -/
def State.wake (s : State) (k : CtxKey) (f : Instr → Option (State → Outcome State Fault Refusal)) : Option State :=
  match s.ctx k with
  | some c =>
    if c.status = .waiting && c.sys.isNone then
      match f (c.insn .B) with
      | some g =>
        match g { s with cur := some { c with status := .run, issue := Issue.idle } } with
        | .next t =>
          if (t.cur.map fun x => x.issue.held) = some false then some (s.modCtx k fun x => { x with status := .run })
          else none
        | _ => none
      | none => none
    else none
  | none => none

/-- WAIT_RETIRE (R162, R341). -/
def execWaitRetire (k : CtxKey) (s : State) : Outcome State Fault Refusal :=
  orStay s (s.wake k fun i => match i with
    | .wait g sem n a => some (execWait g sem n a)
    | .waitd g sem n a => some (execWaitd g sem n a)
    | _ => none)

/-- FNW_RETIRE (R100, R341). -/
def execFnwRetire (k : CtxKey) (s : State) : Outcome State Fault Refusal :=
  orStay s (s.wake k fun i => match i with
    | .fnw g ft => some (execFnw g ft)
    | _ => none)

/-- FENCE_RETIRE (R101). -/
def execFenceRetire (k : CtxKey) (s : State) : Outcome State Fault Refusal :=
  orStay s (s.wake k fun i => match i with
    | .fence g sc => some (execFence g sc)
    | _ => none)

/-- EVWAIT_RETIRE (R166). -/
def execEvwaitRetire (k : CtxKey) (s : State) : Outcome State Fault Refusal :=
  orStay s (s.wake k fun i => match i with
    | .evwait g m => some (execEvwait g m)
    | _ => none)

/-! ### SYS (R170) -/

/-- The queue as the distributor keeps it, once it has been enabled since power-on (R263). -/
def State.queue (s : State) (q : Nat) : Option WQueue := s.queues.find? fun w => w.q = q

/-- Changes a queue. -/
def State.modQueue (s : State) (q : Nat) (f : WQueue → WQueue) : State :=
  { s with queues := s.queues.map fun w => if w.q = q then f w else w }

/-- The reply to a request other than NOTIFY (Table 7.11). -/
def State.sysAnswer (s : State) (c : Ctx) (r : SysReq) : Word :=
  if r.code = 0x0001 then BitVec.ofNat 64 s.capacity
  else if r.code = 0x0002 then
    match s.queue (bitsOf r.s60.toNat 0 17) with
    | some w => if w.asid = c.info.asid then BitVec.ofNat 64 w.done else BitVec.allOnes 64
    | none => BitVec.allOnes 64
  else BitVec.allOnes 64

/-- The reply lands in s62 and the context goes on; in the save image of a SAVED context (R48). The value of an earlier
operation for s62 that is still in flight is discarded (R136). -/
def State.sysLand (s : State) (k : CtxKey) (v : Word) : State :=
  let t := s.modCtx k fun c =>
    { c with
      sys := none
      inflight := c.discard (.s 62)
      s := if c.status = .saved then c.s else c.s.setIfInBounds 62 v
      status := if c.status = .waiting then .run else c.status }
  match (s.ctx k).any (fun c => c.status == .saved), s.imageOf k with
  | true, some b =>
    (t.hbmSet (b + 0x100 + 8 * 62) (clean (leBytes 8 v.toNat))).hbmSet (b + 2)
      (clean [s.hbm.byte (b + 2) &&& 0xEF])
  | _, _ => t

/-- A controller of a die is in a hand-over, from its hand-over point to its end (R316). -/
def State.handingOver (s : State) (d target : Nat) : Bool :=
  match s.repl with
  | some r => r.die = d && r.target = target && decide (2 ≤ r.step)
  | none => false

/-- A distributor of a die serves requests: its image runs, and it is not in a hand-over (R316). -/
def State.distributes (s : State) (d : Nat) : Bool :=
  (s.die d).inService && ((s.die d).fw.getD 3 none).any Fw.beating && !s.handingOver d 4

/-- The die whose distributor has a context's SYS request: its own, or of a SAVED context that which serves its queue (DEDUCED,
assumption 112). -/
def State.sysDie (s : State) (c : Ctx) : Option Nat := if c.status = .saved then s.server c.info.queue else some (c.site / 64)

/-- The reply to a SYS request may be delivered now: of a SAVED context, into its image (R19, R48). -/
def State.sysOpens (s : State) (c : Ctx) : Bool := (s.sysDie c).all fun d => s.savedOpens d c

/-- SYS_REPLY (R170): the distributor that has the request answers; a NOTIFY is handed to system software, whose reply
comes by NREPLY. -/
def execSysReply (k : CtxKey) (s : State) : Outcome State Fault Refusal :=
  orStay s (match s.ctx k with
    | some c =>
      match c.sys with
      | some r =>
        if !(s.sysDie c).any s.distributes then none
        else if r.code.getLsbD 15 then
          if r.asked then none
          else
            some { s.modCtx k (fun x => { x with sys := some { r with asked := true } }) with
              outbox := s.outbox ++ [.notify k r.code r.s60 r.s61] }
        else if s.sysOpens c then some (s.sysLand k (s.sysAnswer c r))
        else none
      | none => none
    | none => none)

/-! ### Held LATOMs (R241) -/

/-- The LATOM is performed at the port: its old value is there, and the loads that its release covers have theirs. -/
def Ctx.performLatom (c : Ctx) (h : HeldLatom) : Ctx :=
  let r := c.settleLoads.lmAtomic h.bundle h.ty h.op h.off h.val.toNat h.expd.toNat
  { r.2 with
    latom := none
    inflight := r.2.inflight.map fun (e : InFlight) =>
      if e.held then { e with held := false, val := (atomResult h.ty r.1).toNat } else e }

/-- The port checks the word of a held LATOM at its access: a location that has been poisoned since keeps its value, and the
tract ends (R345). DESIGN CHOICE (assumption 75): the report is that of the LATOM's bundle, of class 1 and slot 5. -/
def Ctx.poisonedLatom (c : Ctx) (detail : Nat) : Ctx :=
  ({ c with latom := none, inflight := c.inflight.filter fun e => !e.held } : Ctx).fatalReport ⟨Code.poison, 1, 5, detail⟩

/-- A context whose results land at once: it has exited or met a fault, or its tract does not run on (R40, R47, R347). -/
def State.landsAll (s : State) (c : Ctx) : Bool :=
  c.status == .exited || c.fatal.isSome || !(s.tract c.key.tract).any fun t => t.state == .running && t.cause.isNone

/-- A held LATOM is performed. -/
def State.latomDone (s : State) (k : CtxKey) (c : Ctx) (h : HeldLatom) : State :=
  let all := s.landsAll c
  (s.spreadFrom k h.scope).modCtx k fun x => if all then (x.performLatom h).landAll else (x.performLatom h).landDue

/-- LATOM_PERFORM (R98, R241). -/
def execLatomPerform (k : CtxKey) (s : State) : Outcome State Fault Refusal :=
  orStay s (match s.ctx k with
    | some c =>
      match c.latom with
      | some h =>
        if c.status != .saved && s.releases c h.bundle none h.scope then
          match c.lmFault [h.off] (atomBytes h.ty) (atomBytes h.ty) true with
          | some (_, d) => some (s.modCtx k fun x => x.poisonedLatom d)
          | none => some (s.latomDone k c h)
        else none
      | none => none
    | none => none)

/-! ### Replays and windows -/

/-- The four steps of a grant. -/
def Grant.steps (g : Grant) : List Nat := [g.m, g.v, g.n, g.h]

/-- Domain by domain the greater step. -/
def maxSteps (xs ys : List Nat) : List Nat := List.zipWith max xs ys

/-- The steps that a context gives its site: of the grant in effect on its tile, or of its tract's floors while a first grant
or one of a switch-in has still to take effect there (R284, R293; DEDUCED, assumption 99). -/
def State.stepsOf (s : State) (c : Ctx) : List Nat :=
  match s.tract c.key.tract with
  | some t => if t.renew && !(t.next.any fun g => g == c.grant) then t.floor.steps else c.grant.steps
  | none => c.grant.steps

/-- The counted contexts of a site (R284). -/
def State.countedOn (s : State) (site : Nat) : List Ctx := s.ctxs.filter fun c => c.site == site && c.status != .saved

/-- Steps as a site may run them: step 0 while it is tripped (R385), at most step 7 while it drains (R363). -/
def Site.limit (x : Site) (xs : List Nat) : List Nat :=
  if x.tripped then [0, 0, 0, 0] else if x.drain then xs.map (min 7) else xs

/-- The greatest steps that a site's counted contexts give, domain by domain (R284). -/
def State.effective (s : State) (site : Nat) : List Nat :=
  (s.site site).limit (((s.countedOn site).map s.stepsOf).foldl maxSteps [0, 0, 0, 0])

/-- The steps that a context gives its site, or is to give it once it takes the grant that is due. -/
def State.dueOf (s : State) (c : Ctx) : List Nat :=
  match (s.tract c.key.tract).bind Tract.next with
  | some g => maxSteps (s.stepsOf c) g.steps
  | none => s.stepsOf c

/-- The steps for which the regulator of a site is to settle: the effective ones, and those that are to come. -/
def State.due (s : State) (site : Nat) : List Nat :=
  (s.site site).limit (((s.countedOn site).map s.dueOf).foldl maxSteps [0, 0, 0, 0])

/-- Domain by domain, steps b are at most a. -/
def covers (a b : List Nat) : Bool := (List.zip a b).all fun p => decide (p.2 ≤ p.1)

/-- One move of a site's clocks and regulator (R301), which are to come to the steps due, and the clocks to those in effect now:
before a rise, the regulator settles at the new voltage, and then the clocks rise; at a fall the clocks go first, and the voltage
follows. DESIGN CHOICE (assumption 146): the clocks of the four domains move together. -/
def Site.regulate (x : Site) (due now : List Nat) : Site :=
  if !covers x.volt due then { x with volt := maxSteps x.volt due }
  else if x.clock != now then { x with clock := now }
  else { x with volt := due }

/-- Such a move of a site. -/
def State.regulate (s : State) (site : Nat) : State := s.modSite site fun x => x.regulate (s.due site) (s.effective site)

/-- Sites with no counted context, whose clocks stand (R284), begin at step 0 when one is placed there. -/
def State.wakeSites (s : State) (sites : List Nat) : State :=
  (sites.filter fun i => (s.countedOn i).isEmpty).foldl (fun t i =>
    t.modSite i fun x => { x with volt := [0, 0, 0, 0], clock := [0, 0, 0, 0] }) s

/-- The supply of a site in units of 1.25 mV above 0.45 V (R298, R301, R359, R363): the greatest of point and offset over the
domains, at the steps for which the regulator has settled, with 25 mV for each emergency raise, at 0.85 V while the site drains.
In a Glen hand-over it stands 3 % higher: 3 % of (360 + x) units, rounded down to a step of the regulator (DESIGN CHOICE,
assumption 111). -/
def State.supply (s : State) (site : Nat) : Nat :=
  let x := s.site site
  let one := fun d => ((x.pts.getD d []).getD (x.volt.getD d 0) 0 : Int) + x.age.getD d 0
  let up := ((List.range 4).map one).foldl max 0 + 20 * x.raised
  let held := if s.handingOver (site / 64) 2 then up + (360 + up) * 3 / 100 else up
  if x.drain then 320 else (min 320 held).toNat

/-- Changes entry (dom, step) of a table of a site. -/
def modTable (xs : List (List Nat)) (dom step : Nat) (f : Nat → Nat) : List (List Nat) :=
  modAt xs dom fun ys => modAt ys step f

/-- A site after a replay of its last issue, in domain V at a step: Glen counts the replay, and the event of four squashes in
a row as well; that event raises the supply, unless Glen is being replaced (R299, R300, R359). After sixteen squashes at
0.85 V the site is to be fenced (R362). For 32 issues, every second cycle is idle.
DESIGN CHOICE (assumption 98): the event counts as one more replay, and each further four squashes are one more event. -/
def Site.replay (x : Site) (step : Nat) (atTop glen : Bool) : Site :=
  let n := x.squash + 1
  let top := if atTop then x.squashTop + 1 else 0
  let event := n % 4 == 0
  { x with
    squash := n
    squashTop := top
    halfRate := 64
    replays := modTable x.replays 1 step (· + (if event then 2 else 1))
    raised := if event && glen then x.raised + 1 else x.raised
    wantFence := x.wantFence || decide (16 ≤ top) }

/-- A context has not left a site since it issued there. -/
def Ctx.stayedOn (c : Ctx) (site : Nat) : Bool :=
  c.site == site && (c.status == .run || c.status == .waiting || c.status == .exited)

/-- TIMING_REPLAY (R299): the issue of the site's last V-cycle is squashed and comes again: each context that it issued
counts one more in REPLAYS. -/
def execTimingReplay (site : Nat) (s : State) : Outcome State Fault Refusal :=
  let x := s.site site
  .next (if x.last.isEmpty then s
  else
    { s.modSite site fun y =>
        y.replay (y.clock.getD 1 0) (s.supply site = 320) (!s.handingOver (site / 64) 2) with
      ctxs := s.ctxs.map fun (c : Ctx) =>
        if x.last.contains c.key && c.stayedOn site then { c with replays := c.replays + 1 } else c })

/-- A window of R45 ends after 65536 V-cycles of the site. -/
def Site.window (x : Site) : Site :=
  if 65536 ≤ x.vcount then { x with vcount := 0, exprCount := 0, bulkTurn := true } else x

/-- EXPCAP_WINDOW (R45, R281): where 65536 V-cycles of a site have passed, a new window begins there. A site's next V-cycle
begins it as well. -/
def execExpcapWindow (s : State) : Outcome State Fault Refusal := .next { s with sites := s.sites.map Site.window }

end Sys2Proof.Machine
end

