-- ==== Sys2Proof/Machine/EvMatrix.lean ====
section
/-! DEFINITION. Events of the matrix engine (R217, R218, R224 to R235): units start and end, and MMAG's slices travel.
A unit takes effect in one step at its end; the engine is held by the entry whose active bit is set. -/
namespace Sys2Proof.Machine
open Host

/-! ### Which unit starts (R218, R94) -/

/-- The engine may go on with a context's head entry: its tract runs on; or issue has stopped, and a held LATOM waits for the
entry. Nothing moves on a die out of service (R373). -/
def State.mMoves (s : State) (c : Ctx) : Bool :=
  c.status != .saved && !s.ctxLost c.key && (s.tract c.key.tract).any fun t =>
    (t.state == .running && t.cause.isNone && c.fatal.isNone) ||
      ((t.state == .running || t.state == .saving) && c.mq.head?.any (s.entryGoesOn c))

/-- The head entry may start: it is idle, and no CPYA of an earlier bundle has to read a plane that it writes. -/
def Ctx.startable (c : Ctx) : Option MEntry :=
  match c.mq with
  | m :: _ => if !m.running && !(planesWritten c m.ins 1).any (c.planeAwaited m.bundle) then some m else none
  | [] => none

/-- The head entry is an MMAG whose step has all its slices and waits for the engine. -/
def Ctx.stepReady (c : Ctx) : Bool :=
  match c.mq with
  | m :: _ => m.running && !m.active && isMmag m.ins && c.slicesIn
  | [] => false

/-- An entry of a context on the site holds the engine. -/
def State.engineBusy (s : State) (site : Nat) : Bool :=
  s.ctxs.any fun c => c.site == site && c.status != .saved && c.mq.any fun m => m.active

/-- What the engine of a site could do next for a context: start its head entry, or take up its MMAG step. An MMAG posts
its slices whether or not the engine is free; every other unit needs it. -/
def State.mCan (s : State) (c : Ctx) : Bool :=
  s.mMoves c &&
    ((match c.startable with
      | some m => isMmag m.ins || !s.engineBusy c.site
      | none => false) || (c.stepReady && !s.engineBusy c.site))

/-- The context that the engine serves next: express first. -/
def State.mNext (s : State) (site : Nat) : Option Ctx :=
  let can := fun (e : Bool) => s.ctxs.find? fun c => c.site == site && c.express == e && s.mCan c
  match can true with
  | some c => some c
  | none => can false

/-! ### Deferred checks (R225, R345) -/

/-- The poisoned row or plane that a unit would read, of some ranges of rows, as DETAIL of POISON (R345). -/
def Ctx.mPoison (c : Ctx) (i : Instr) (ranges : List (Nat × Nat)) : Option Nat :=
  let rows := ranges.flatMap fun r => (List.range r.2).map fun j => r.1 + j
  match rows.find? fun r => poisonHit c.poisonTs 8 (256 * r) 256 with
  | some r => some (poisonDetail 1 r)
  | none =>
    match (planesRead c i).find? fun p => poisonHit c.poisonAs 8 (65536 * p) 65536 with
    | some p => some (poisonDetail 2 p)
    | none => none

/-- The checks of an instruction that can fail at the start of a unit: those of Table 16.3 that have class 5 beside 1, and of an
MMAG those of Table 9.6 on its tract and its chain, which no issue has made where its guard was false then. Every other one has
been made at issue on what the unit finds (R158, R225). DESIGN CHOICE (assumption 144): MMAG_TRACT and CHAIN_PARAM that a unit
finds are deferred matrix faults of class 5, as R225 says of every check of a later repetition, though Table 16.3 gives them class
1 alone. -/
def deferrable (i : Instr) : List Nat :=
  [Code.tsRange, Code.asRange, Code.scaleShort, Code.chainFull, Code.chainState] ++
    if isMmag i then [Code.mmagTract, Code.chainParam] else []

/-- The deferred fault of a unit at its start: code and DETAIL. -/
def Ctx.unitFault (c : Ctx) (i : Instr) : Option (Nat × Nat) :=
  match (c.mFault i).filter fun f => (deferrable i).contains f.1 with
  | some f => some f
  | none => (c.mPoison i (rowsRead c i)).map fun d => (Code.poison, d)

/-- A deferred matrix fault (class 5) of the head entry. -/
def Ctx.deferred (c : Ctx) (code detail : Nat) : Ctx :=
  let c1 := match c.mq with
    | m :: _ => c.fails m.bundle
    | [] => c
  c1.fatalReport ⟨code, 5, 4, detail⟩

/-! ### Ends of repetitions (R158, R226) -/

/-- The head entry has done one repetition: its registers advance if REPM governs it, and it leaves the queue with its
last one. -/
def Ctx.repDone (c : Ctx) (m : MEntry) : Ctx :=
  let c1 := if m.governed then c.advanceMa m.ins 1 else c
  let rest := c1.mq.drop 1
  { c1 with
    mq := if m.reps ≤ 1 then rest else { m with reps := m.reps - 1, running := false, active := false } :: rest }

/-- Replaces the head entry. -/
def Ctx.setHead (c : Ctx) (m : MEntry) : Ctx := { c with mq := m :: c.mq.drop 1 }

/-! ### MMAG (R230, R231) -/

/-- Bytes of rows of TS. -/
def Ctx.tsRows (c : Ctx) (row n : Nat) : List Byte := c.ts.read (256 * row) (256 * n)

/-- The slices that a member supplies to a step: of A to its mesh row, of B to its mesh column; only present rows are
read. -/
def Ctx.slices (c : Ctx) (t : MatTy) (ch : BitVec 3) (mx my : BitVec 4) : List Slice :=
  let d := c.rch ch
  let part := d.size * mtWidth t / 16 / 8
  let pres := panelRows d.present (mtWidth t)
  let r := c.key.rank / 8
  let q := c.key.rank % 8
  let one := fun (isA : Bool) (dst : Nat) (m : BitVec 4) (i : Nat) =>
    (⟨c.key.rank, dst, isA, c.mmagStep, t, d.size, d.k, d.start,
      c.tsRows (maRow (c.rma m)) (min part (pres - i * part))⟩ : Slice)
  (List.range 8).map (fun j => one true (8 * r + j) mx q) ++ (List.range 8).map fun j => one false (8 * j + q) my r

/-- The head entry's step, if it is a running MMAG that waits for slices. -/
def Ctx.runningStep (c : Ctx) : Option (MatTy × BitVec 3) :=
  match c.mq with
  | m :: _ =>
    match m.ins with
    | .mmag _ t ch _ _ _ _ => if m.running && !m.active then some (t, ch) else none
    | _ => none
  | [] => none

/-- A slice agrees with the receiver's type, c, K and chunk start. -/
def Ctx.sliceFits (c : Ctx) (t : MatTy) (ch : BitVec 3) (x : Slice) : Bool :=
  let d := c.rch ch
  x.ty == t && x.c == d.size && x.k == d.k && x.s == d.start

/-- The first slice that the sender holds for a receiver's running step reaches it; one that does not fit ends the tract. -/
def State.sliceArrives (s : State) (c f : Ctx) : Option State :=
  match c.runningStep with
  | some (t, ch) =>
    match f.mmagOut.find? fun x => x.dest = c.key.rank && x.step = c.mmagStep with
    | some x =>
      let s1 := s.modCtx f.key fun y => { y with mmagOut := y.mmagOut.erase x }
      if !s.mMoves c then none
      else if c.sliceFits t ch x then some (s1.modCtx c.key fun y => { y with mmagIn := y.mmagIn ++ [x] })
      else some (s1.modCtx c.key fun y => y.deferred Code.mmagMismatch f.key.rank)
    | none => none
  | none => none

/-- MMAG_SLICE_ARRIVE (R231). A slice of a step that the receiver has completed comes from a member that repeats the step
after a switch-in (R235); it has no effect. -/
def execMmagSliceArrive (k : CtxKey) (sender : Nat) (s : State) : Outcome State Fault Refusal :=
  orStay s (match s.ctx k, s.ctx ⟨k.tract, sender⟩ with
    | some c, some f =>
      match f.mmagOut.find? fun x => x.dest = k.rank && decide (x.step < c.mmagStep) with
      | some x => some (s.modCtx f.key fun y => { y with mmagOut := y.mmagOut.erase x })
      | none => s.sliceArrives c f
    | _, _ => none)

/-- A panel from eight slices of one kind, of part rows each: byte b of the panel. -/
def slicedPanel (xs : List Slice) (isA : Bool) (part : Nat) (b : Nat) : Byte :=
  let i := b / (256 * part)
  match xs.find? fun x => x.isA == isA && (if isA then x.sender % 8 else x.sender / 8) == i with
  | some x => x.bytes.getD (b % (256 * part)) 0
  | none => 0

/-! ### Effects (R222 to R234) -/

/-- What a repetition of an MMA or MMAG multiplies (R224, R230). -/
def Ctx.product (c : Ctx) (mmag : Bool) (t : MatTy) (ch : BitVec 3) (mx my ms mt : BitVec 4) : Product where
  ty := t
  a := if mmag then slicedPanel c.mmagIn true ((c.rch ch).size * mtWidth t / 128) else tsPanel c (maRow (c.rma mx))
  b := if mmag then slicedPanel c.mmagIn false ((c.rch ch).size * mtWidth t / 128) else tsPanel c (maRow (c.rma my))
  size := (c.rch ch).size
  kp := (c.rch ch).present
  sa := scaleAt c (maRow (c.rma ms)) (c.mcfg.getLsbD 0) c.tabA
  sb := scaleAt c (maRow (c.rma mt)) (c.mcfg.getLsbD 1) c.tabB

/-- The chunk's sum, element by element, merged into the chain. -/
def Ctx.multiply (c : Ctx) (mmag : Bool) (t : MatTy) (ch : BitVec 3) (mx my ms mt : BitVec 4) : Ctx :=
  let p := c.product mmag t ch mx my ms mt
  c.merge ch (mtInt t) (tabulate 16384 fun e => p.sum (e / 128) (e % 128))

/-- MSCALE's effect: the 16 entries as the unit finds them. DESIGN CHOICE (assumption 20): where a copy has changed an entry
since the check at issue, so that it is not positive and finite, the whole table keeps its previous contents (R111). -/
def Ctx.loadScales (c : Ctx) (tabB : Bool) (mx : BitVec 4) : Ctx :=
  let xs := c.scaleTable mx
  let v := Vector.ofFn fun (i : Fin 16) => BitVec.ofNat 32 (xs.getD i.val 0)
  if !xs.all posFin then c
  else if tabB then { c with tabB := v } else { c with tabA := v }

/-- The effect of one unit. -/
def Ctx.unitEffect (c : Ctx) (m : MEntry) : Ctx :=
  match m.ins with
  | .mma _ t ch mx my ms mt => c.multiply false t ch mx my ms mt
  | .mmag _ t ch mx my ms mt =>
    { c.multiply true t ch mx my ms mt with mmagIn := [], mmagStep := c.mmagStep + 1 }
  | .mclose _ ch => c.closeChain ch
  | .mcomb _ ch chb => c.combChain ch chb
  | .mout _ pl mx t rm => c.outPanel m.satf8 pl.toNat (maRow (c.rma mx)) t (if rm = .rtz then .rtz else .rne)
  | .mlda _ pl mx t => c.loadPanel pl.toNat (maRow (c.rma mx)) t
  | .mscale _ tabB mx => c.loadScales tabB mx
  | i => c.mAhead i m.lent 1

/-- The head entry starts: a repetition whose guard is false only counts (R131, R226); a check that fails is a deferred
fault; an MMAG supplies its slices; every other unit takes the engine. MODE.ARITH is read here (R232), as it stands for the
instruction's bundle (R112). DESIGN CHOICE (assumption 119): a governed repetition that a switch-out abandoned reads its guard
again as it starts again. -/
def Ctx.startUnit (c : Ctx) (m : MEntry) : Ctx :=
  if m.governed && !c.guardOk (guardOf m.ins) then c.repDone m
  else
    match c.unitFault m.ins with
    | some (code, d) => c.deferred code d
    | none =>
      match m.ins with
      | .mmag _ t ch mx my _ _ =>
        { c.setHead { m with running := true, satf8 := m.satNext } with mmagOut := c.mmagOut ++ c.slices t ch mx my }
      | _ => c.setHead { m with running := true, active := true, satf8 := m.satNext }

/-- M_UNIT_START (R218). -/
def execMUnitStart (site : Nat) (s : State) : Outcome State Fault Refusal :=
  orStay s (match s.mNext site with
    | some c =>
      match c.startable, c.mq with
      | some m, _ => some (s.modCtx c.key fun x => x.startUnit m)
      | none, m :: _ => some (s.modCtx c.key fun x => x.setHead { m with active := true })
      | none, [] => none
    | none => none)

/-- The end of a unit: it takes effect, unless a row or plane that it reads has been poisoned meanwhile (R345, Table 16.1). -/
def Ctx.endUnit (c : Ctx) (m : MEntry) : Ctx :=
  match c.mPoison m.ins (if isMmag m.ins then (rowsRead c m.ins).drop 2 else rowsRead c m.ins) with
  | some d => (c.setHead { m with running := false, active := false }).deferred Code.poison d
  | none => (c.unitEffect m).repDone m

/-- M_UNIT_END (R224, R218): the unit in progress at the site ends. -/
def execMUnitEnd (site : Nat) (s : State) : Outcome State Fault Refusal :=
  orStay s (match s.ctxs.find? fun c => c.site == site && s.mMoves c && c.mq.head?.any fun m => m.active with
    | some c =>
      match c.mq with
      | m :: _ => some (s.modCtx c.key fun x => x.endUnit m)
      | [] => none
    | none => none)

end Sys2Proof.Machine
end

