-- ==== Sys2Proof/Machine/Image.lean ====
section
/-! DEFINITION. Save images and teardown images (R353 to R355, R392, R393): the layout of Table 16.9, the directory of a
save region, and what a switch-in restores. -/
namespace Sys2Proof.Machine

/-! ### Pieces of a memory -/

/-- The cells of [a, a + n), counted from a. -/
def Memory.slice (m : Memory) (a n : Nat) : Memory :=
  (m.filter fun c => decide (a ≤ c.1) && decide (c.1 < a + n)).map fun c => (c.1 - a, c.2)

/-- Replaces [a, a + n) by the cells of x, which are counted from a and lie below n. -/
def Memory.splice (m : Memory) (a n : Nat) (x : Memory) : Memory :=
  m.filter (fun c => decide (c.1 < a)) ++ (x.slice 0 n).map (fun c => (c.1 + a, c.2)) ++
    m.filter fun c => decide (a + n ≤ c.1)

/-- A memory that holds pieces at their offsets, a later piece over an earlier one. -/
def memoryOf (ps : List (Nat × List Byte)) : Memory := ps.foldl (fun m p => m.write p.1 p.2) []

/-! ### Encodings -/

/-- STATE of a descriptor (Table 9.3). -/
def chainStateCode : ChainState → Nat
  | .void => 0
  | .opened => 1
  | .closed => 2

/-- A chain descriptor in 128 bits (Table 9.3). -/
def Chain.code (d : Chain) : Nat :=
  chainStateCode d.state + d.kind.toNat * 2 ^ 2 + d.kset.toNat * 2 ^ 3 + d.h * 2 ^ 4 + d.d * 2 ^ 9 + d.cs * 2 ^ 14 +
    d.k * 2 ^ 17 + d.lo * 2 ^ 42 + d.lw * 2 ^ 66 + d.m * 2 ^ 71 + d.occ * 2 ^ 92

/-- The descriptor of 128 bits; STATE 3, which is never held, reads as VOID. -/
def chainOf (v : Nat) : Chain where
  state := match bitsOf v 0 2 with
    | 1 => .opened
    | 2 => .closed
    | _ => .void
  kind := v.testBit 2
  kset := v.testBit 3
  h := bitsOf v 4 5
  d := bitsOf v 9 5
  cs := bitsOf v 14 3
  k := bitsOf v 17 25
  lo := bitsOf v 42 24
  lw := bitsOf v 66 5
  m := bitsOf v 71 21
  occ := bitsOf v 92 31

/-- An engine-queue entry in 16 bytes (Table 16.9). -/
def MEntry.bytes (m : MEntry) : List Byte :=
  leBytes 8 (wordOf m.ins + ((m.lent.map BitVec.toNat).getD 0) * 2 ^ 32 + m.governed.toNat * 2 ^ 52) ++ leBytes 8 m.reps

/-- The record of an engine entry; nothing for an operation that no record describes. -/
def Op.image (o : Op) : List Byte :=
  if (opcOf o.kind).isSome then
    resumeRecord o.kind o.dst o.src o.ctl o.aux o.next o.recd ((o.cut.map causeOf).getD 0)
  else []

/-- FLAGS of an image. -/
def Ctx.imageFlags (c : Ctx) (teardown : Bool) : Nat :=
  c.express.toNat + (c.status == .exited).toNat * 2 + teardown.toNat * 4 + c.indet.toNat * 8 + c.sys.isSome.toNat * 16 +
    c.aside.isSome.toNat * 32 + c.tretVal.isSome.toNat * 64

/-- The 32 bytes of the loops, outer first. -/
def loopBytes (ls : List Loop) : List Byte :=
  ls.reverse.flatMap fun l => leBytes 4 l.first.toNat ++ leBytes 4 l.last.toNat ++ leBytes 8 l.rem

/-- Register files, byte for byte. -/
def wordsBytes {n w : Nat} (bytes : Nat) (v : Vector (BitVec w) n) : List Byte :=
  v.toList.flatMap fun x => leBytes bytes x.toNat

/-- The part of an image before the partitions (Table 16.9). Tokens have no content that software may use and are kept
by the model. -/
def Ctx.header (c : Ctx) (teardown : Bool) : Memory :=
  memoryOf ([
    (0x0000, leBytes 2 1 ++ leBytes 2 (c.imageFlags teardown) ++ leBytes 2 c.key.rank),
    (0x0008, leBytes 4 c.info.queue ++ leBytes 4 0 ++ leBytes 8 c.info.seq),
    (0x0018, leBytes 4 c.pc.toNat ++ leBytes 4 (if c.indet then c.trapPc.toNat else 0)),
    (0x0020, leBytes 4 ((c.xfer.map fun x => x.target.toNat).getD 0) ++ leBytes 1 ((c.xfer.map Xfer.left).getD 0)),
    (0x0028, leBytes 8 (c.repm.getD 0)),
    (0x0030, loopBytes c.loops),
    (0x0050, leBytes 8 ((c.sys.map fun r => r.code.toNat).getD 0)),
    (0x0058, leBytes 4 ((c.aside.map fun x => x.target.toNat).getD 0) ++ leBytes 1 ((c.aside.map Xfer.left).getD 0)),
    (0x0060, leBytes 8 ((c.tretVal.map fun x => x.1.toNat).getD 0) ++ leBytes 1 ((c.tretVal.map Prod.snd).getD 0)),
    (0x0080, leBytes 8 c.mode.toNat ++ leBytes 8 c.events.toNat ++ leBytes 8 c.evmask.toNat ++
      leBytes 8 c.fault.toNat ++ leBytes 8 c.srkey.toNat)] ++ [
    (0x0100, wordsBytes 8 c.s),
    (0x0300, wordsBytes 8 c.a),
    (0x0400, wordsBytes 256 c.va),
    (0x2400, wordsBytes 256 c.vb),
    (0x4400, wordsBytes 32 c.p),
    (0x4700, wordsBytes 4 c.ma),
    (0x4740, c.ch.toList.flatMap fun d => leBytes 16 d.code),
    (0x47C0, leBytes 4 c.mcfg.toNat ++ leBytes 4 (ofEls 1 (c.f.toList.map Bool.toNat))),
    (0x47C8, wordsBytes 4 c.b),
    (0x4840, wordsBytes 4 c.tabA ++ wordsBytes 4 c.tabB),
    (0x48C0, c.mq.flatMap MEntry.bytes),
    (0x5000, c.sems.flatMap fun x => leBytes 4 x.count.toNat ++ leBytes 1 x.marks ++ leBytes 3 0)] ++
    c.ops.map fun o => (0x5800 + 128 * o.e, o.image))

/-- The bytes of a save image of the context; a teardown image ends at 0x8000 (R354). -/
def Ctx.imageSize (c : Ctx) (teardown : Bool) : Nat :=
  if teardown then imgLm else imgLm + c.lmSize + c.tsSize + c.asSize

/-- The whole image. -/
def Ctx.image (c : Ctx) (teardown : Bool) : Memory :=
  let h := (c.header teardown).slice 0 imgLm
  if teardown then h
  else ((h.splice imgLm c.lmSize c.lm).splice c.imgTs c.tsSize c.ts).splice c.imgAs c.asSize c.as

/-- ECC words of an image, from its start, that receive a poisoned word (R344): of the semaphores, and of the partitions of a
save image. -/
def Ctx.imagePoison (c : Ctx) (teardown : Bool) : List Nat :=
  let sems := c.poisonSem.map fun i => (0x5000 + 8 * i) / 32
  if teardown then sems.eraseDups
  else
    (sems ++ (c.poisonLm.map fun w => (imgLm + 8 * w) / 32) ++
      (c.poisonTs.map fun w => (c.imgTs + 8 * w) / 32) ++ c.poisonAs.map fun w => (c.imgAs + 8 * w) / 32).eraseDups

/-! ### Save regions (R353) -/

/-- The base of a die's save region. -/
def State.saveBase (s : State) (d : Nat) : Nat := bitsOf (s.die d).savebase.toNat 30 10 * 2 ^ 30

/-- The end of a die's save region. -/
def State.saveEnd (s : State) (d : Nat) : Nat := s.saveBase d + bitsOf (s.die d).savebase.toNat 0 8 * 2 ^ 30

/-- A directory entry of a die holds V = 1. -/
def State.dirUsed (s : State) (d i : Nat) : Bool := (s.hbm.byte (s.saveBase d + 32 * i + 3)).getLsbD 7

/-- An image that is being written, or whose directory entry still holds V = 1. -/
def State.imageLives (s : State) (x : SaveImg) : Bool := !x.written || s.dirUsed x.die x.idx

/-- Such images of a die. -/
def State.liveImages (s : State) (d : Nat) : List SaveImg := s.images.filter fun x => x.die = d && s.imageLives x

/-- A SaveImg stands for the same directory entry as another. -/
def SaveImg.same (x y : SaveImg) : Bool := x.die == y.die && x.idx == y.idx

/-- Rounds up to 64 KiB. -/
def up64k (n : Nat) : Nat := (n + 65535) / 65536 * 65536

/-- The lowest place of n bytes, aligned to 64 KiB, behind the directory and beside the live images. -/
def State.imagePlace (s : State) (d n : Nat) : Option Nat :=
  let live := s.liveImages d
  let cands := (s.saveBase d + 65536) :: live.map fun x => up64k (x.pa + x.size)
  let ok := fun a => decide (a + n ≤ s.saveEnd d) && decide (a + n ≤ hbmSize) && s.spanReaches a n &&
    live.all fun x => !meets a n x.pa (up64k x.size)
  (cands.filter ok).foldl (fun (b : Option Nat) a => some (min (b.getD a) a)) none

/-- The lowest free directory entry. -/
def State.dirFree (s : State) (d : Nat) : Option Nat :=
  let live := s.liveImages d
  (List.range 2048).find? fun i => !s.dirUsed d i && live.all fun x => x.idx != i

/-- Sets room aside for a context's image; none where the region or the directory is full. What was kept of the die's images that
live no longer is forgotten: their places and entries are free. -/
def State.roomFor (s : State) (d : Nat) (c : Ctx) (teardown : Bool) : Option (State × Nat) :=
  let n := c.imageSize teardown
  match s.imagePlace d n, s.dirFree d with
  | some pa, some i =>
    some ({ s with
      images := (s.images.filter fun (x : SaveImg) => x.die != d || s.imageLives x) ++ [(⟨d, i, pa, n, false⟩ : SaveImg)] }, pa)
  | _, _ => none

/-- Sets room aside for the images of several contexts: rank and PA of each. -/
def State.roomForAll (s : State) (d : Nat) (teardown : Bool) : List Ctx → Option (State × List (Nat × Nat))
  | [] => some (s, [])
  | c :: cs =>
    match s.roomFor d c teardown with
    | some (t, pa) => (t.roomForAll d teardown cs).map fun r => (r.1, (c.key.rank, pa) :: r.2)
    | none => none

/-- Writes a context's image, with its directory entry, in the room set aside at pa; what lies behind it stays. -/
def State.writeImage (s : State) (c : Ctx) (pa : Nat) (teardown : Bool) : State :=
  match s.images.find? fun x => x.die = c.info.queue / 32768 && x.pa = pa && !x.written with
  | some x =>
    let n := x.size
    let entry := leBytes 4 (c.info.queue + 2 ^ 31) ++ leBytes 2 c.key.rank ++ leBytes 2 (c.imageFlags teardown) ++
      leBytes 8 c.info.seq ++ leBytes 8 pa ++ leBytes 8 0
    let s1 := { s with
      hbm := s.hbm.splice pa n (c.image teardown)
      hbmPoison := (s.hbmPoison.filter fun w => !meets (32 * w) 32 pa n) ++
        (c.imagePoison teardown).map fun w => pa / 32 + w
      images := s.images.map fun (y : SaveImg) => if y.same x then { y with written := true } else y }
    s1.hbmSet (s.saveBase x.die + 32 * x.idx) (clean entry)
  | none => s

/-- Clears V of the image of die d at pa, once it has been restored or discarded. -/
def State.dropImage (s : State) (d pa : Nat) : State :=
  match s.images.find? fun x => x.die = d && x.pa = pa && s.imageLives x with
  | some x =>
    let a := s.saveBase x.die + 32 * x.idx
    { (if x.written then s.hbmSet (a + 3) (clean [s.hbm.byte (a + 3) &&& 0x7F]) else s) with
      images := s.images.filter fun (y : SaveImg) => !y.same x }
  | none => s

/-! ### Switch-in (R355, R393) -/

/-- Reserved bytes of an image: offset and length; with those of its semaphores and of its records, the CPY2 record in them
included. -/
def imageReserved : List (Nat × Nat) :=
  (tabulate 256 fun i => (0x5005 + 8 * i, 3)) ++ (tabulate 64 fun i => (0x5803 + 128 * i, 5)) ++
    (tabulate 64 fun i => (0x5858 + 128 * i, 40)) ++ (tabulate 64 fun i => (0x5844 + 128 * i, 12)) ++
    [(0x03, 1), (0x06, 2), (0x0C, 4), (0x25, 3), (0x2D, 3),
      (0x52, 6), (0x5D, 3), (0x69, 23), (0xA8, 88), (0x4828, 24), (0x48E0, 1824), (0x7800, 2048)]

/-- Reserved bits of the fields of an image (R4): offset and bytes of the field, first bit and number of bits. FLAGS, the pending
REPM count, the index at 0x0068, MODE, EVENTS, EVMASK, FAULT, the matrix configuration, the flags, the chain descriptors, the
M instructions, and of each record CTL (Tables 0.1 and 10.3) and ROWS of its CPY2 record (Table 10.5). -/
def imageFieldReserved : List (Nat × Nat × Nat × Nat) :=
  [(0x02, 2, 7, 9), (0x28, 8, 39, 25), (0x68, 1, 6, 2), (0x80, 8, 1, 1), (0x80, 8, 6, 2), (0x80, 8, 11, 53), (0x88, 8, 5, 59),
    (0x90, 8, 5, 59), (0x98, 8, 8, 2), (0x98, 8, 51, 8), (0x47C0, 4, 4, 28), (0x47C4, 4, 8, 24)] ++
    (tabulate 8 fun i => (0x4740 + 16 * i, 16, 123, 5)) ++ (tabulate 2 fun i => (0x48C0 + 16 * i, 8, 53, 11)) ++
    (tabulate 2 fun i => (0x48C8 + 16 * i, 8, 39, 25)) ++ (tabulate 64 fun i => (0x5818 + 128 * i, 8, 47, 1)) ++
    (tabulate 64 fun i => (0x5818 + 128 * i, 8, 61, 3)) ++ tabulate 64 fun i => (0x5840 + 128 * i, 4, 25, 7)

/-- An image that a switch-in accepts: SAVEV is 1, its reserved bytes and bits are zero (R4, R355), and nothing of it before the
partitions is poisoned but semaphores. -/
def State.imageOk (s : State) (pa : Nat) : Bool :=
  s.hbmNum pa 2 == 1 && imageReserved.all (fun r => (s.hbm.slice (pa + r.1) r.2).isEmpty) &&
    imageFieldReserved.all (fun r => bitsOf (s.hbmNum (pa + r.1) r.2.1) r.2.2.1 r.2.2.2 == 0) &&
    s.hbmPoison.all fun w => !meets (32 * w) 32 pa 0x5000 && !meets (32 * w) 32 (pa + 0x5800) 0x2800

/-- Poisoned words of unit bytes in [a, a + n) of HBM, counted from a. -/
def State.poisonIn (s : State) (a n unit : Nat) : List Nat :=
  (s.hbmPoison.filter fun w => meets (32 * w) 32 a n).flatMap fun w =>
    tabulate (32 / unit) fun i => (32 * w - a) / unit + i

/-- A register file read back. -/
def State.file (s : State) (pa bytes n w : Nat) : Vector (BitVec w) n :=
  Vector.ofFn fun i => BitVec.ofNat w (s.hbmNum (pa + bytes * i.val) bytes)

/-- The context that a switch-in restores from its image (R393): registers, events, semaphores and partitions as the
image holds them, the rest as it stopped. Its code is loaded again in ALLOC; an EXITED rank stays EXITED (R38). Its copies go
on as issued before every later bundle, and a CPYT or CPYLT waits for every row that a saved M instruction uses. DESIGN CHOICE
(assumption 76): f0 comes back true whatever the image holds, as R131 has it. -/
def State.restore (s : State) (c : Ctx) (pa site : Nat) : Ctx :=
  let n := fun o k => s.hbmNum (pa + o) k
  { c with
    site := site
    status := if (n 2 2).testBit 1 then .exited else .alloc
    clock := 0
    replays := 0
    events := BitVec.ofNat 64 (n 0x88 8) ||| (if c.det then 0 else c.events &&& c.evmask)
    s := s.file (pa + 0x100) 8 64 64
    a := s.file (pa + 0x300) 8 32 64
    va := s.file (pa + 0x400) 256 32 2048
    vb := s.file (pa + 0x2400) 256 32 2048
    p := s.file (pa + 0x4400) 32 24 256
    ma := s.file (pa + 0x4700) 4 16 32
    ch := Vector.ofFn fun i => chainOf (n (0x4740 + 16 * i.val) 16)
    mcfg := BitVec.ofNat 20 (n 0x47C0 4)
    f := Vector.ofFn fun i => i.val == 0 || (n 0x47C4 4).testBit i.val
    b := s.file (pa + 0x47C8) 4 8 32
    sems := tabulate c.sems.length fun i => ⟨BitVec.ofNat 32 (n (0x5000 + 8 * i) 4), n (0x5004 + 8 * i) 1⟩
    lm := s.hbm.slice (pa + imgLm) c.lmSize
    ts := s.hbm.slice (pa + c.imgTs) c.tsSize
    as := s.hbm.slice (pa + c.imgAs) c.asSize
    istore := []
    poisonSem := (s.poisonIn (pa + 0x5000) 2048 8).filter fun i => decide (i < c.sems.length)
    poisonLm := s.poisonIn (pa + imgLm) c.lmSize 8
    poisonTs := s.poisonIn (pa + c.imgTs) c.tsSize 8
    poisonAs := s.poisonIn (pa + c.imgAs) c.asSize 8
    poisonIs := []
    ops := c.ops.map fun (o : Op) =>
      if o.kind == .cpya || o.cut.isSome then o else { o with behind := max o.behind (c.issued - 1) } }

end Sys2Proof.Machine
end

