-- ==== Sys2Proof/Machine/Power.lean ====
section
/-! DEFINITION. Grants (R284 to R293, R361, R383): the power model, the service order, the grant rule and its extension
below the floors. -/
namespace Sys2Proof.Machine

/-! ### Steps and the model (R284, R287) -/

/-- A grant from four steps. -/
def grantOf (xs : List Nat) (gseq : Nat) : Grant := ⟨xs.getD 0 0, xs.getD 1 0, xs.getD 2 0, xs.getD 3 0, gseq⟩

/-- The steps of a word in the layout of RREQ (Table 11.4). -/
def grantOfWord (w : Nat) : Grant := ⟨bitsOf w 0 5, bitsOf w 8 5, bitsOf w 16 5, bitsOf w 24 5, 0⟩

/-- RATIO[28:0] of a grant. -/
def Grant.word (g : Grant) : Nat := g.m + g.v * 2 ^ 8 + g.n * 2 ^ 16 + g.h * 2 ^ 24

/-- W(d, s) in milliwatts (R287). -/
def wattsOf (d s : Nat) : Nat := Config.wpk.getD d 0 * (s + 1) ^ 2 / 1024

/-- Power of one site at four steps. -/
def siteWatts (xs : List Nat) : Nat := ((List.range 4).map fun d => wattsOf d (xs.getD d 0)).sum

/-- A tract that counts in the model: it holds sites. -/
def Tract.counted (t : Tract) : Bool := t.state != .saved

/-- The model in milliwatts for steps by tract (R287). -/
def modelOf (ts : List Tract) (f : Tract → List Nat) : Nat :=
  Config.pfix + ((List.range 256).map fun site =>
    match (ts.filter fun t => t.counted && t.sites.contains site).map f with
    | [] => 0
    | x :: xs => siteWatts (xs.foldl maxSteps x)).sum

/-! ### The grant rule (R288, R289, R361, R383) -/

/-- a comes before b in service order (R288). -/
def servedBefore (a b : Tract) : Bool :=
  let key := fun (t : Tract) => [if t.express then 0 else 1, t.prio, t.order, t.q, t.seq]
  decide (key a < key b)

/-- Inserts a tract at its place. -/
def insertTract (t : Tract) : List Tract → List Tract
  | [] => [t]
  | x :: xs => if servedBefore x t then x :: insertTract t xs else t :: x :: xs

/-- Counted tracts in service order. -/
def serviceOrder (ts : List Tract) : List Tract := (ts.filter Tract.counted).foldr insertTract []

/-- Tiers, from the last in service order to the first; each from its last tract to its first. -/
def tiersUp (xs : List Tract) : List (List Tract) :=
  (xs.foldl (fun (acc : List (List Tract)) t =>
    match acc with
    | (y :: ys) :: rest => if y.express == t.express && y.prio == t.prio then (t :: y :: ys) :: rest else [t] :: acc
    | _ => [t] :: acc) [])

/-- The level of a tract, 32 unless lowered. -/
def levelOf (ls : List (Nat × Nat)) (t : Tract) : Nat := ((ls.find? fun p => p.1 = t.id).map Prod.snd).getD 32

/-- Sets a level. -/
def setLevel (ls : List (Nat × Nat)) (t : Tract) (n : Nat) : List (Nat × Nat) := (t.id, n) :: ls.filter fun p => p.1 != t.id

/-- One pass over a tier: each tract falls by one level until the model fits; the levels, and whether it fits. -/
def lowerPass (model : List (Nat × Nat) → Nat) (cap : Nat) : List Tract → List (Nat × Nat) → List (Nat × Nat) × Bool
  | [], ls => (ls, false)
  | t :: ts, ls =>
    let ls1 := if 1 < levelOf ls t then setLevel ls t (levelOf ls t - 1) else ls
    if model ls1 ≤ cap then (ls1, true) else lowerPass model cap ts ls1

/-- Lowers a tier, pass by pass, until the model fits or every tract of it is at level 1. -/
def lowerTier (model : List (Nat × Nat) → Nat) (cap : Nat) (tier : List Tract) :
    Nat → List (Nat × Nat) → List (Nat × Nat)
  | 0, ls => ls
  | fuel + 1, ls =>
    if model ls ≤ cap then ls
    else
      let r := lowerPass model cap tier ls
      if r.2 then r.1 else lowerTier model cap tier fuel r.1

/-- Levels for a cap (R289). -/
def levels (model : List (Nat × Nat) → Nat) (cap : Nat) (ts : List Tract) : List (Nat × Nat) :=
  (tiersUp (serviceOrder ts)).foldl (fun ls tier => lowerTier model cap tier 31 ls) []

/-- The least ceiling of a tract's sites, domain by domain (R361). -/
def State.ceilings (s : State) (sites : List Nat) : List Nat :=
  sites.foldl (fun xs i => List.zipWith min xs ((s.site i).ceil)) [31, 31, 31, 31]

/-- step(t, d) of R289 under the ceilings of R361. -/
def State.stepsAt (s : State) (t : Tract) (lam : Nat) : List Nat :=
  List.zipWith min (s.ceilings t.sites)
    (List.zipWith (fun q f => max f ((q + 1) * lam / 32 - 1)) t.req.steps t.floor.steps)

/-- step(t, d) of R383, below the floors. -/
def State.stepsBelow (s : State) (t : Tract) (mu : Nat) : List Nat :=
  List.zipWith min (s.ceilings t.sites) (t.floor.steps.map fun f => (f + 1) * mu / 32 - 1)

/-- The cap in milliwatts, 10 % lower while an over-current lasts (R384). -/
def Saddle.capMw (x : Saddle) : Nat := if x.ocCut then x.cap * 900 else x.cap * 1000

/-- The model with every tract at level 1. -/
def State.floorModel (s : State) : Nat := modelOf s.tracts fun t => s.stepsAt t 1

/-- The floors fit the cap. -/
def State.floorsFit (s : State) : Bool := decide (s.floorModel ≤ s.saddle.capMw)

/-- A tract with a tile on a die whose Saddle agent is being replaced keeps its grant (R316). -/
def State.frozen (s : State) (t : Tract) : Bool := t.sites.any fun i => s.handingOver (i / 64) 3

/-- The steps that a tract which keeps its grant counts with: the greater, where some of its tiles have taken a new one. -/
def Tract.heldSteps (t : Tract) : List Nat :=
  match t.next with
  | some g => maxSteps t.grant.steps g.steps
  | none => t.grant.steps

/-- The model with the tracts that held names at their own steps, and steps by level for the others. -/
def State.modelWith (s : State) (held : Tract → Bool) (f : Tract → Nat → List Nat) (ls : List (Nat × Nat)) : Nat :=
  modelOf s.tracts fun t => if held t then t.heldSteps else f t (levelOf ls t)

/-- Steps may be lowered below floors (R383, R391): no tract is leaving, and no pre-emptible bulk tract runs or is going to run,
whether it is to end, has no room for its images or waits in GATED (assumption 79). -/
def State.mayLower (s : State) : Bool :=
  s.tracts.all fun t => t.state != .saving && ((t.state != .running && t.state != .starting) || t.express || !t.preempt)

/-- The steps of an arbitration that leaves the tracts which held names as they are: by tract id, with the levels lam and mu. Where
the floors exceed the cap and steps may not be lowered below them, every tract is at its floors. -/
def State.arbitrationOf (s : State) (held : Tract → Bool) : List (Nat × List Nat × Nat × Nat) :=
  let ts := s.tracts.filter fun t => t.counted && !held t
  let cap := s.saddle.capMw
  if s.floorsFit || !s.mayLower then
    let ls := levels (s.modelWith held s.stepsAt) cap ts
    ts.map fun t => (t.id, s.stepsAt t (levelOf ls t), levelOf ls t, 32)
  else
    let ls := levels (s.modelWith held s.stepsBelow) cap ts
    ts.map fun t => (t.id, s.stepsBelow t (levelOf ls t), 1, levelOf ls t)

/-- The steps of an arbitration: grants that are kept in a hand-over are held fixed (R316). -/
def State.arbitration (s : State) : List (Nat × List Nat × Nat × Nat) := s.arbitrationOf s.frozen

/-! ### Placeability as to power (R290, R383) -/

/-- The model with every counted tract of ts at its floors, and a launch of so many sites at its floors on top. -/
def State.testModel (s : State) (ts : List Tract) (sites : Nat) (floor : Grant) : Nat :=
  modelOf ts (fun t => s.stepsAt t 1) + sites * siteWatts floor.steps

/-- A launch passes the test of R290 beside the tracts ts, while no tract holds a step below its floor. -/
def State.powerFits (s : State) (ts : List Tract) (sites : Nat) (floor : Grant) : Bool :=
  !s.saddle.uflr && decide (s.testModel ts sites floor ≤ s.saddle.capMw)

/-- An arbitration is due (R291). -/
def State.wantArbitration (s : State) : State := { s with saddle := { s.saddle with pending := true } }

end Sys2Proof.Machine
end

