-- ==== Sys2Proof/Machine/Place.lean ====
section
/-! DEFINITION. Launches (R148, R149, R268 to R278, R290, R364): the block and its image, the checks made at taking, the
order of placement, the sites a launch may take, and which tracts make room. -/
namespace Sys2Proof.Machine

/-! ### The launch block (Tables 11.4 to 11.7) -/

/-- A field of the block. -/
def Launch.field (l : Launch) (off n : Nat) : Nat := recField l.blk off n

/-- Launch CTL (Table 11.5). -/
def Launch.ctl (l : Launch) : Nat := l.field 12 4
def Launch.t (l : Launch) : Nat := bitsOf l.ctl 8 9
def Launch.ent (l : Launch) : Nat := bitsOf l.ctl 6 2
def Launch.shape (l : Launch) : Nat := bitsOf l.ctl 4 2
def Launch.hnd (l : Launch) : Bool := l.ctl.testBit 3
def Launch.preempt (l : Launch) : Bool := l.ctl.testBit 2
def Launch.restart (l : Launch) : Bool := l.ctl.testBit 1
def Launch.det (l : Launch) : Bool := l.ctl.testBit 0

/-- The partition sizes of a PART word (Table 11.6). -/
def partOf (w : Nat) : Part :=
  ⟨bitsOf w 0 6, bitsOf w 8 6, bitsOf w 16 6, if bitsOf w 24 4 = 0 then 4 else bitsOf w 24 4, bitsOf w 32 7⟩

/-- The other fields of Table 11.4. -/
def Launch.image (l : Launch) : Word := BitVec.ofNat 64 (l.field 0 8)
def Launch.imageSize (l : Launch) : Nat := l.field 8 4
def Launch.part (l : Launch) : Part := partOf (l.field 16 8)
def Launch.req (l : Launch) : Grant := grantOfWord (l.field 24 4)
def Launch.floor (l : Launch) : Grant := grantOfWord (l.field 28 4)
def Launch.deth (l : Launch) : Nat := l.field 32 4
def Launch.gid (l : Launch) : Nat := l.field 36 4
def Launch.g (l : Launch) : Nat := l.field 40 2
def Launch.grank (l : Launch) : Nat := l.field 42 2
def Launch.crec (l : Launch) : Word := BitVec.ofNat 64 (l.field 56 8)
def Launch.args (l : Launch) : List Word := tabulate 16 fun i => BitVec.ofNat 64 (l.field (128 + 8 * i) 8)

/-- The valid dependences: queue and launch number. -/
def Launch.deps (l : Launch) : List (Nat × Nat) :=
  (List.range 4).filterMap fun i =>
    let w := l.field (64 + 16 * i) 4
    if w.testBit 31 then some (bitsOf w 0 17, l.field (72 + 16 * i) 8) else none

/-- The reserved fields of a block are zero (R4). -/
def Launch.clean (l : Launch) : Bool :=
  let p := l.field 16 8
  let steps := fun (w : Nat) => w &&& 0xE0E0E0E0 == 0
  bitsOf l.ctl 17 15 == 0 && bitsOf p 6 2 == 0 && bitsOf p 14 2 == 0 && bitsOf p 22 2 == 0 && bitsOf p 28 4 == 0 &&
    bitsOf p 39 25 == 0 && steps (l.field 24 4) && steps (l.field 28 4) && l.field 44 4 == 0 &&
    (List.range 4).all fun i => bitsOf (l.field (64 + 16 * i) 4) 17 14 == 0 && l.field (68 + 16 * i) 4 == 0

/-- The ranges of Table 3.1 (R56). -/
def Part.ok (p : Part) : Bool :=
  decide (p.lm ≤ 32) && decide (p.ts ≤ 32) && decide (p.as ≤ 32) && decide (p.sem ≤ 8) && decide (1 ≤ p.is) &&
    decide (p.is ≤ 64)

/-- T and SHAPE fit R30 and R31. -/
def Launch.shapeOk (l : Launch) : Bool :=
  decide (1 ≤ l.t) && decide (l.t ≤ 256) &&
    match l.shape with
    | 0 => true
    | 1 => l.t == 64
    | 2 => l.t % 4 == 0
    | _ => false

/-- A local-window address aligned to 64 (R268). -/
def localVa (v : Word) : Bool := canonical v && !remoteWin v.toNat && v.toNat % 64 == 0

/-- Every step of a is at most that of b. -/
def Grant.within (a b : Grant) : Bool := (List.zip a.steps b.steps).all fun p => decide (p.1 ≤ p.2)

/-! ### The image (R148, R149) -/

/-- A section entry (Table 6.25): kind, offset, size, address. -/
structure Section where
  kind : Nat
  off : Nat
  size : Nat
  addr : Nat
deriving DecidableEq, Repr

/-- The section entries of an image. -/
def sectionsOf (img : List Byte) : List Section :=
  (List.range (recField img 6 2)).map fun i =>
    let f := fun o => recField img (16 + 16 * i + o) 4
    ⟨f 0, f 4, f 8, f 12⟩

/-- No two ranges (offset, size) of a list meet. -/
def apart : List (Nat × Nat) → Bool
  | [] => true
  | x :: xs => xs.all (fun y => !meets x.1 x.2 y.1 y.2) && apart xs

/-- The sections of an image that R149 accepts for the partitions of a launch. -/
def wimOf (img : List Byte) (p : Part) : Option Wim :=
  let n := recField img 6 2
  let secs := sectionsOf img
  let bytes := fun (x : Section) => (img.drop x.off).take x.size
  let data := secs.filter fun x => x.kind = 2
  if recField img 0 4 == 0x314D4957 && recField img 4 2 == 1 && decide (1 ≤ n) && decide (n ≤ 16) &&
      recField img 8 8 == 0 && decide (16 + 16 * n ≤ img.length) &&
      secs.all (fun x => decide (1 ≤ x.kind) && decide (x.kind ≤ 4) && decide (x.off + x.size ≤ img.length) &&
        (x.kind == 2 || x.addr == 0)) &&
      apart ((data.filter fun x => x.size != 0).map fun x => (x.addr, x.size)) &&
      data.all (fun x => x.size == 0 || decide (x.addr + x.size ≤ p.lm * 65536)) then
    match secs.filter (fun x => x.kind = 1), secs.filter fun x => x.kind = 3 with
    | [c], [e] =>
      let entries := tabulate (e.size / 4) fun i => recField img (e.off + 4 * i) 4
      if decide (0 < c.size) && c.size % 32 == 0 && decide (c.size ≤ p.is * 4096) && decide (4 ≤ e.size) &&
          decide (e.size ≤ 64) && e.size % 4 == 0 && entries.all (fun x => x % 32 == 0 && decide (x < c.size)) then
        some ⟨bytes c, entries, data.map fun x => (x.addr, bytes x)⟩
      else none
    | _, _ => none
  else none

/-- The distributor reads n bytes at a virtual address of an address space, page by page; none where a page faults, or
holds poison (R266, R364). DESIGN CHOICE (assumption 120): an address of the remote window, which a RING may name, has no block to
read. -/
def State.vread (s : State) (asid va n : Nat) : Nat → Option (List Byte)
  | 0 => if n = 0 then some [] else none
  | fuel + 1 =>
    if n = 0 then some []
    else if 2 ^ 56 ≤ va then none
    else
      let k := min n (65536 - va % 65536)
      match s.walkAll asid va ⟨true, false, false, false⟩ with
      | none => none
      | some pa =>
        let xs := s.hbmRead pa k
        if xs.any Prod.snd then none else (s.vread asid (va + k) (n - k) fuel).map fun r => xs.map Prod.fst ++ r

/-- A distributor of die d may make such a read now (R366, R368). -/
def State.vreadOpens (s : State) (d asid va n : Nat) : Nat → Bool
  | 0 => true
  | fuel + 1 =>
    let k := min n (65536 - va % 65536)
    n == 0 || decide (2 ^ 56 ≤ va) ||
      (s.vaOpens d asid va k ⟨true, false, false, false⟩ && s.vreadOpens d asid (va + k) (n - k) fuel)

/-- A distributor of die d may read the image of a launch now, if it is to read it at all. -/
def State.imageOpens (s : State) (d : Nat) (l : Launch) : Bool :=
  decide (2 ^ 24 < l.imageSize) || s.vreadOpens d l.asid l.image.toNat l.imageSize (l.imageSize / 65536 + 2)

/-- The image of a launch, read and accepted with the checks of R270 that concern it. -/
def State.imageFor (s : State) (l : Launch) : Option Wim :=
  match (s.vread l.asid l.image.toNat l.imageSize (l.imageSize / 65536 + 2)).bind fun img => wimOf img l.part with
  | some w =>
    if (l.ent == 1 && decide (w.entries.length < 2)) ||
        (l.hnd && (l.deth % 32 != 0 || decide (w.code.length ≤ l.deth))) then none
    else some w
  | none => none

/-- The entry bundle of a rank. -/
def Launch.entry (l : Launch) (rank : Nat) : Nat :=
  match l.ent with
  | 0 => l.img.entries.getD 0 0
  | 1 => l.img.entries.getD (if rank = 0 then 0 else 1) 0
  | _ => l.img.entries.getD (rank % l.img.entries.length) 0

/-! ### Which launches can be placed at all (R275) -/

/-- Sites in service of a die. -/
def State.sitesOf (s : State) (d : Nat) : Nat := ((List.range 64).filter fun i => s.siteInService (64 * d + i)).length

/-- The sites in service can meet the shape. -/
def State.shapeMeets (s : State) (l : Launch) : Bool :=
  match l.shape with
  | 1 => (List.range 4).any fun d => (s.die d).inService && s.sitesOf d == 64
  | 2 => (List.range 4).all fun d => (s.die d).inService && decide (l.t / 4 ≤ s.sitesOf d)
  | _ => decide (l.t ≤ s.capacity)

/-! ### Checks at taking (R270, Table 16.7) -/

/-- The queue of a dependence has the launch's address space and a counter, and is not the launch's own future. -/
def State.depOk (s : State) (l : Launch) (d : Nat × Nat) : Bool :=
  match s.queue d.1 with
  | some w => w.asid == l.asid && !(d.1 == l.q && decide (l.seq ≤ d.2))
  | none => false

/-- GID, G and GRANK agree. -/
def Launch.groupOk (l : Launch) : Bool :=
  decide (l.grank < l.g) && decide (l.g ≤ 512) && (l.gid != 0 || (l.g == 1 && l.grank == 0))

/-- The checks of R270 in its order: the status of the first that fails, or the image. -/
def State.checkLaunch (s : State) (l : Launch) : Except Nat Wim :=
  if l.asid = 0 then .error 0x101
  else if !l.clean || l.ent == 3 then .error 0x102
  else if !l.shapeOk || !s.shapeMeets l then .error 0x103
  else if !l.part.ok then .error 0x104
  else if !localVa l.image || !localVa l.crec || decide (l.imageSize < 16) || decide (2 ^ 24 < l.imageSize) then .error 0x102
  else
    match s.imageFor l with
    | none => .error 0x105
    | some w =>
      if !l.floor.within l.req then .error 0x102
      else if !l.groupOk then .error 0x106
      else if !l.deps.all (s.depOk l) then .error 0x107
      else .ok w

/-! ### Changing launches -/

/-- The launch of a number in a queue that has not ended. -/
def State.launch (s : State) (q seq : Nat) : Option Launch :=
  s.launches.find? fun l => l.q = q && l.seq = seq && match l.phase with
    | .over _ | .refused .. | .written _ => false
    | _ => true

/-- The launch of a tract. -/
def State.launchOf (s : State) (t : Nat) : Option Launch := s.launches.find? fun l => l.phase == .placed t

/-- Changes a launch. -/
def State.modLaunch (s : State) (l : Launch) (f : Launch → Launch) : State :=
  { s with launches := s.launches.map fun x => if x.q = l.q && x.seq = l.seq && x.gen = l.gen then f x else x }

/-- The news that a member of a group has ended goes to every other device to which a valid route leads (R349). -/
def State.tellPeers (s : State) (l : Launch) : State :=
  if 2 ≤ l.g then
    let far := (List.range 512).filter fun d => d != s.devId && s.routeOk d
    { s with clpSent := s.clpSent ++ far.map fun d => ⟨some (s.routeTo d), d, .news (BitVec.ofNat 32 l.gid)⟩ }
  else s

/-- Drops the reservation of a launch (R277). -/
def State.unreserve (s : State) (l : Launch) : State :=
  { s with reservations := s.reservations.filter fun (r : Reservation) => !(r.q == l.q && r.seq == l.seq) }

/-- A launch that holds no sites has ended: its record is to be written, and its reservation goes. -/
def State.turnDown (s : State) (l : Launch) (status : Nat) : State :=
  let was := match l.phase with
    | .reissue _ => true
    | _ => false
  (s.modLaunch l fun x => { x with phase := .refused status was }).unreserve l

/-- Ends a launch that holds no sites. A member that has been matched takes its peers with it, and keeps its group rank (R33). -/
def State.refuse (s : State) (l : Launch) (status : Nat) : State :=
  (if l.phase == .matched then s.tellPeers l else s).turnDown l status

/-- The distributor that serves a queue is in a hand-over (R316). -/
def State.queueHeld (s : State) (q : Nat) : Bool := (s.server q).any fun d => s.handingOver d 4

/-- The tests of R275 at a change of the logical capacity: of every launch not placed and every reissue. SAVED tracts are
tested where they end. A distributor in a hand-over makes them at its end (R316, R389). -/
def State.retest (s : State) : State :=
  s.launches.foldl (fun t l =>
    if s.queueHeld l.q then t else
    match l.phase with
    | .taken | .matched => if t.shapeMeets l then t else t.refuse l 0x103
    | .reissue _ => if t.shapeMeets l then t else t.refuse l 5
    | _ => t) s

/-! ### The completion record (R272, Table 11.8) -/

/-- The bytes of a record. -/
def recordBytes (l : Launch) (c : EndCause) (grant : Nat) : List Byte :=
  leBytes 2 c.status ++ leBytes 2 c.code ++ leBytes 2 c.frank ++ leBytes 2 0 ++ leBytes 8 l.seq ++ leBytes 4 l.q ++
    leBytes 4 l.swouts ++ leBytes 8 c.fault.toNat ++ leBytes 4 grant ++ leBytes 4 l.reissues ++ leBytes 24 0

/-- Writes a record; a launch whose CREC cannot be written has none (R351). -/
def State.writeRecord (s : State) (l : Launch) (bs : List Byte) : State :=
  if localVa l.crec then
    match s.walkAll l.asid l.crec.toNat ⟨false, true, false, false⟩ with
    | some pa => if s.reachesAll pa 64 then s.hbmWrite pa (clean bs) else s
    | none => s
  else s

/-- The distributor of a launch's queue may write its record now. -/
def State.recordOpens (s : State) (l : Launch) : Bool :=
  (s.server l.q).all fun d => s.vaOpens d l.asid l.crec.toNat 64 ⟨false, true, false, false⟩

/-- The distributor of a queue may reach its descriptor now. -/
def State.queueOpens (s : State) (q : Nat) : Bool := (s.server q).all fun d => s.opens d ((s.descriptor q).getD 0) 64

/-! ### Order of placement (Table 11.9) -/

/-- Inserts by an ascending key, before equal ones. -/
def insertBy {α : Type} (key : α → List Nat) (x : α) : List α → List α
  | [] => [x]
  | y :: ys => if key y < key x then y :: insertBy key x ys else x :: y :: ys

/-- Sorts by an ascending key. -/
def sortBy {α : Type} (key : α → List Nat) (xs : List α) : List α := xs.foldr (insertBy key) []

/-- Two entries are of one launch. -/
def Launch.same (a b : Launch) : Bool := a.q == b.q && a.seq == b.seq && a.gen == b.gen

/-- A launch that has been placed once, whatever has become of it. -/
def Launch.hasBeenPlaced (l : Launch) : Bool :=
  match l.phase with
  | .placed _ | .reissue _ | .written _ | .over true | .refused _ true => true
  | .taken | .matched | .over false | .refused _ false => false

/-- Every launch taken before l from its queue has been placed, or has advanced DONE and is gone (R274): only a queue's oldest
unplaced launch can be eligible, over its enablings too. -/
def State.isTurn (s : State) (l : Launch) : Bool :=
  (s.launches.takeWhile fun x => !x.same l).all fun x => x.q != l.q || x.hasBeenPlaced

/-- Every dependence is met (R271). DESIGN CHOICE (assumption 121): DONE is compared as it stands now, so a dependence that has been
met is met no longer once its queue is enabled again with a lower TAIL. -/
def State.depsMet (s : State) (l : Launch) : Bool :=
  l.deps.all fun d => (s.queue d.1).any fun w => decide (d.2 < w.done)

/-- A launch that is eligible to be placed for the first time. -/
def State.isFresh (s : State) (l : Launch) : Bool := l.phase == .matched && s.depsMet l && s.isTurn l

/-- The SAVED tract of a launch, unless it is to end. -/
def State.savedTract (s : State) (l : Launch) : Option Tract :=
  match l.phase with
  | .placed t => (s.tract t).filter fun x => x.state == .saved && x.cause.isNone
  | _ => none

/-- The key of a class and priority of a die in State.rr. -/
def tierKey (l : Launch) (d : Nat) : Nat := 16 * d + (if l.express then 0 else 8) + l.prio

/-- The key of Table 11.9 on a die. -/
def State.placeKey (s : State) (d : Nat) (l : Launch) : List Nat :=
  let base := [if l.express then 0 else 1, l.prio]
  match s.savedTract l, l.phase with
  | some t, _ => base ++ [0, t.left, l.q]
  | none, .reissue left => base ++ [0, left, l.q]
  | none, _ =>
    match s.rr.find? fun p => p.1 = tierKey l d with
    | some p => base ++ [1, if l.q ≤ p.2 then 1 else 0, l.q]
    | none => base ++ [1, 0, l.q]

/-- A launch that waits for sites: a SAVED tract, a reissue, or an eligible launch. -/
def State.isWaiting (s : State) (l : Launch) : Bool :=
  s.isFresh l || (s.savedTract l).isSome || match l.phase with
    | .reissue _ => true
    | _ => false

/-- Launches that wait for sites, in the order of a die. -/
def State.orderOn (s : State) (d : Nat) : List Launch := sortBy (s.placeKey d) (s.launches.filter s.isWaiting)

/-- Launches that wait for sites, in the order of the leader's die. -/
def State.waitingLaunches (s : State) : List Launch := s.orderOn s.leaderDie

/-! ### Sites (R28, R31, R32, R276, R277, R361) -/

/-- Two contexts fit on a site (R28). -/
def beside (a b : Part) : Bool :=
  decide (a.lm + b.lm ≤ 32) && decide (a.ts + b.ts ≤ 32) && decide (a.as + b.as ≤ 32) && decide (a.sem + b.sem ≤ 8) &&
    decide (a.is + b.is ≤ 64)

/-- A site has a slot of the class and room for the partitions, once the tracts gone are gone. -/
def State.siteOpen (s : State) (l : Launch) (gone : List Nat) (i : Nat) : Bool :=
  let x := s.site i
  s.siteInService i && !x.drain && !x.wantFence &&
    (List.zip x.ceil l.floor.steps).all (fun p => decide (p.2 ≤ p.1)) &&
    s.ctxs.all fun c => c.site != i || gone.contains c.key.tract || (c.express != l.express && beside c.part l.part)

/-- The distributor that serves a queue does so now. -/
def State.serves (s : State) (q : Nat) : Bool := (s.server q).any s.distributes

/-- A die's distributor may take the launch: no reservation holds it back (R277). -/
def State.dieTakes (s : State) (l : Launch) (d : Nat) : Bool :=
  s.distributes d &&
    (l.express || (s.savedTract l).isSome || s.reservations.all fun (r : Reservation) =>
      !r.dies.contains d || (r.q == l.q && r.seq == l.seq) ||
        (s.launch r.q r.seq).all fun x => decide (x.t ≤ l.t))

/-- A die may take the launch now: its Saddle agent is in no hand-over either (Table 13.8). -/
def State.dieOpen (s : State) (l : Launch) (d : Nat) : Bool := s.dieTakes l d && !s.handingOver d 3

/-- Sites of a die that are open. -/
def State.openSites (s : State) (l : Launch) (gone : List Nat) (d : Nat) : List Nat :=
  ((List.range 64).map fun i => 64 * d + i).filter (s.siteOpen l gone)

/-- Dies that may take the launch, its own first. -/
def State.openDies (s : State) (l : Launch) : List Nat :=
  let own := l.q / 32768
  (own :: (List.range 4).filter fun d => d != own).filter (s.dieOpen l)

/-- Tracts in the order of R278: highest PRIO value first, then the most recently placed. -/
def State.leaveOrder (s : State) (ts : List Tract) : List Tract := sortBy (fun t => [7 - t.prio, s.orders - t.order]) ts

/-- A pre-emptible bulk tract that is not to end. -/
def Tract.yields (t : Tract) : Bool := !t.express && t.preempt && t.cause.isNone

/-- Pre-emptible bulk tracts that run, in the order of R278. -/
def State.preemptible (s : State) : List Tract := s.leaveOrder (s.tracts.filter fun t => t.state == .running && t.yields)

/-- Tracts that are being switched out. -/
def State.leaving (s : State) : List Nat := (s.tracts.filter fun t => t.state == .saving).map Tract.id

/-- Tracts that count as room for a launch (R274): for an express launch the pre-emptible bulk tracts and those that are
leaving. -/
def State.countsAsRoom (s : State) (l : Launch) : List Nat :=
  if l.express then s.preemptible.map Tract.id ++ s.leaving else []

/-- The launch fits on its owning die, with what counts as room gone as well, and so stays there (R276), also while a hand-over of
that die's Saddle agent has it wait (Table 13.8). -/
def State.fitsHome (s : State) (l : Launch) (gone : List Nat) : Bool :=
  let own := l.q / 32768
  s.dieTakes l own && l.shape != 2 && decide (l.t ≤ (s.openSites l (gone ++ s.countsAsRoom l) own).length)

/-- The sites that this model's distributor takes, by rank: on its own die where the tract fits there, else wherever the
leader finds them (R276). -/
def State.chooseSites (s : State) (l : Launch) (gone : List Nat) : Option (List Nat) :=
  let own := l.q / 32768
  let dies := s.openDies l
  let lead := s.distributes s.leaderDie
  match l.shape with
  | 1 =>
    match dies.find? fun d =>
        (d == own || (lead && !s.fitsHome l gone)) && (s.openSites l gone d).length == 64 with
    | some d => some (s.openSites l gone d)
    | none => none
  | 2 =>
    let xs := (List.range 4).map fun d => (s.openSites l gone d).take (l.t / 4)
    if lead && dies.length == 4 && xs.all fun x => x.length == l.t / 4 then some xs.flatten else none
  | _ =>
    let mine := if dies.contains own then s.openSites l gone own else []
    if l.t ≤ mine.length then some (mine.take l.t)
    else if s.fitsHome l gone then none
    else
      let xs := dies.flatMap (s.openSites l gone)
      if lead && decide (l.t ≤ xs.length) then some (xs.take l.t) else none

/-- Sites that a distributor may take for a launch, by rank. -/
def State.sitesOk (s : State) (l : Launch) (sites : List Nat) : Bool :=
  let own := l.q / 32768
  let lead := s.distributes s.leaderDie
  let home := sites.all fun i => i / 64 == own
  let fits := s.fitsHome l []
  sites.length == l.t && decide sites.Nodup && sites.all (fun i => s.siteOpen l [] i && s.dieOpen l (i / 64)) &&
    match l.shape with
    | 1 => ((List.range 4).any fun d => sites == (List.range 64).map fun i => 64 * d + i) && (home || (lead && !fits))
    | 2 => lead && sites.zipIdx.all fun p => p.1 / 64 == p.2 / (l.t / 4)
    | _ => home || (lead && !fits)

/-! ### Placeability (R274, R290) -/

/-- Power allows a launch once the tracts gone are gone. -/
def State.powerOk (s : State) (l : Launch) (gone : List Nat) : Bool :=
  s.powerFits (s.tracts.filter fun t => !gone.contains t.id) l.t l.floor

/-- A placement may be arbitrated: the leader's Saddle agent is in no hand-over (Table 13.8). -/
def State.arbiterUp (s : State) : Bool := !s.handingOver s.leaderDie 3

/-- The launch can be placed now. -/
def State.placeable (s : State) (l : Launch) : Bool :=
  s.serves l.q && s.arbiterUp && s.shapeMeets l && (s.chooseSites l []).isSome && s.powerOk l []

/-! ### Making room (R46, R278, R290, R383) -/

/-- A tract stands on sites that a launch needs, with the tracts of gone gone and all of a pool to go at most: sites of a die that
may take it and that come open with the tract, where they are still lacking. A launch that fits on its own die needs sites of that
die, a die tract those of a die that can come open as a whole, and a per-die tract those of a die that has not its share open. -/
def State.usesSitesOf (s : State) (l : Launch) (t : Tract) (gone pool : List Nat) : Bool :=
  t.sites.any fun i =>
    let d := i / 64
    s.siteOpen l (t.id :: gone) i && !s.siteOpen l gone i && s.dieOpen l d &&
      (l.shape != 2 || decide ((s.openSites l gone d).length < l.t / 4)) &&
      (!s.fitsHome l pool || d == l.q / 32768) && (l.shape != 1 || (s.openSites l pool d).length == 64)

/-- Tracts of a list, in its order, that stand on sites which a launch needs, until it has its sites; taken are those before
them. -/
def State.takeFor (s : State) (l : Launch) (pool : List Nat) : List Tract → List Tract → List Tract
  | taken, [] => taken
  | taken, t :: ts =>
    let gone := taken.map Tract.id ++ s.leaving
    if (s.chooseSites l gone).isSome then taken
    else s.takeFor l pool (if s.usesSitesOf l t gone pool then taken ++ [t] else taken) ts

/-- Tracts of a pool, in the order of R278, to switch out so that sites come free for a launch; none where no choice of
them does. They are taken in that order from those on the sites that the launch needs, until there is room; for a die tract those
on the die that then comes open. -/
def State.roomBy (s : State) (l : Launch) (pool : List Tract) : Option (List Tract) :=
  let all := pool.map Tract.id ++ s.leaving
  let taken := s.takeFor l all [] pool
  (s.chooseSites l (taken.map Tract.id ++ s.leaving)).map fun sites =>
    if l.shape = 1 then taken.filter fun t => t.sites.any sites.contains else taken

/-- Adds tracts of a pool in order until f holds of those gone. -/
def addUntil (f : List Nat → Bool) : List Tract → List Tract → List Tract
  | gone, [] => gone
  | gone, t :: ts =>
    if f (gone.map Tract.id) then gone
    else addUntil f (if gone.any fun x => x.id = t.id then gone else gone ++ [t]) ts

/-- A tract has room for its save images (R353). -/
def State.hasRoom (s : State) (t : Tract) : Bool := (s.roomForAll (t.q / 32768) false (s.members t.id)).isSome

/-- Each of some tracts has room for its save images beside those of the tracts before it (R353). -/
def State.haveRoom (s : State) : List Tract → Bool
  | [] => true
  | t :: ts =>
    match s.roomForAll (t.q / 32768) false (s.members t.id) with
    | some r => r.1.haveRoom ts
    | none => false

/-- The tracts to switch out for an express launch (R46, R290): of those that have room for their images, first the ones whose
sites it needs and then those whose power it needs (DESIGN CHOICE, assumption 126), each in the order of R278. -/
def State.victims (s : State) (l : Launch) : List Tract :=
  let pool := s.preemptible.filter s.hasRoom
  match s.roomBy l pool with
  | some vs =>
    let all := addUntil (fun ids => s.powerOk l (ids ++ s.leaving)) vs pool
    if s.powerOk l (all.map Tract.id ++ s.leaving) then all else []
  | none => []

/-- No distributor that deals with the tract is in a hand-over: of a die on which it has sites, or of its queue (R316). -/
def State.distUp (s : State) (t : Tract) : Bool :=
  t.sites.all (fun i => !s.handingOver (i / 64) 4) && (s.server t.q).all fun d => !s.handingOver d 4

/-- A tract may leave now: no hand-over keeps its grant or its images back (R316). -/
def State.mayLeaveNow (s : State) (t : Tract) : Bool := !s.frozen t && s.distUp t

/-- An express launch that could be placed with room made, and for which a tract may leave now, with room for the images of all
(R274, R353). -/
def State.makesRoom (s : State) (l : Launch) : Bool :=
  l.express && !s.placeable l && s.serves l.q && s.arbiterUp && !s.saddle.uflr && s.haveRoom (s.victims l) &&
    (s.victims l).head?.any s.mayLeaveNow

/-- The tract to switch out for the first express launch that waits for room which can be made; one for which it cannot be made is
passed over (R274, rule 5). The tracts leave one at a time, as R290 has it for those that leave for power. DESIGN CHOICE (assumption
137): of all the module's express launches that lack sites too, and none begins to leave while another tract is being saved. -/
def State.expressVictims (s : State) : List Tract :=
  if !s.leaving.isEmpty then []
  else
    match s.waitingLaunches.find? s.makesRoom with
    | some l => (s.victims l).take 1
    | none => []

/-- Sites or dies of a tract are wanted by bulk work (R278): a reservation covers one of its dies, or an eligible bulk launch,
a reissue or a SAVED tract of equal or higher priority lacks sites, and those of the tract are among the ones that would
serve it, or would serve it alone, on whichever die (R276). -/
def State.wanted (s : State) (t : Tract) : Bool :=
  (s.reservations.any fun (r : Reservation) => r.dies.any fun d => t.sites.any fun i => i / 64 == d) ||
    s.waitingLaunches.any fun l =>
      let pool := ((s.preemptible.filter fun x => decide (l.prio ≤ x.prio)).map Tract.id) ++ s.leaving
      !l.express && decide (l.prio ≤ t.prio) && (s.chooseSites l s.leaving).isNone && (s.chooseSites l pool).isSome &&
        (s.usesSitesOf l t s.leaving pool || (s.chooseSites l (t.id :: s.leaving)).isSome)

/-- A ceiling of the tract's sites lies below its floor (R361). -/
def State.belowFloor (s : State) (t : Tract) : Bool :=
  (List.zip (s.ceilings t.sites) t.floor.steps).any fun p => decide (p.1 < p.2)

/-- Every rank of a tract is GATED, or has EXITED before a switch-out, with its grant in effect (R38, R292). -/
def State.startable (s : State) (t : Tract) : Bool :=
  t.state == .starting && t.cause.isNone && !t.renew && t.next.isNone &&
    (s.members t.id).all fun c => c.status == .gated || c.status == .exited

/-- A pre-emptible bulk tract that R383 may switch out: it runs, or it could leave GATED and be switched out at once (DESIGN
CHOICE, assumption 79). -/
def State.powerPool (s : State) : List Tract :=
  s.leaveOrder (s.tracts.filter fun t =>
    (t.state == .running || (s.startable t && (s.launchOf t.id).any fun l => l.g == 1)) && t.yields && s.hasRoom t)

/-- The tract to switch out because the floors exceed the cap (R383), the first of R278's order. No arbitration is made while
the leader's Saddle agent is being replaced (Table 13.8). -/
def State.powerVictims (s : State) : List Tract :=
  if s.floorsFit || !s.leaving.isEmpty || !s.arbiterUp then [] else s.powerPool.take 1

/-! ### The order of placement (Table 11.9, R276) -/

/-- An express launch that will have its sites once the tracts that leave for it have left (R46, R274). -/
def State.roomComes (s : State) (l : Launch) : Bool :=
  l.express && s.serves l.q && s.arbiterUp && s.shapeMeets l &&
    (((s.chooseSites l s.leaving).isSome && s.powerOk l s.leaving) || (!(s.victims l).isEmpty && s.haveRoom (s.victims l)))

/-- The tracts that will be gone when such a launch has its room. -/
def State.roomGone (s : State) (l : Launch) : List Nat :=
  if (s.chooseSites l s.leaving).isSome && s.powerOk l s.leaving then s.leaving else (s.victims l).map Tract.id ++ s.leaving

/-- A launch placed on some sites leaves such a launch x its room: the sites that x is to have, and the power for both (R274,
R290). -/
def State.sparesRoom (s : State) (x l : Launch) (sites : List Nat) : Bool :=
  let gone := s.roomGone x
  sites.all (fun i => !((s.chooseSites x gone).getD []).contains i) &&
    decide (s.testModel (s.tracts.filter fun t => !gone.contains t.id) x.t x.floor + l.t * siteWatts l.floor.steps ≤
      s.saddle.capMw)

/-- The dies on which a launch may find its sites now: its own while it fits there, else any on which the leader may place it
(R276). -/
def State.claimDies (s : State) (l : Launch) : List Nat := if s.fitsHome l [] then [l.q / 32768] else s.openDies l

/-- The launches that come before a launch in a die's list and may find their sites there. -/
def State.before (s : State) (l : Launch) (d : Nat) : List Launch :=
  ((s.orderOn d).takeWhile fun x => !x.same l).filter fun x => (s.claimDies x).contains d

/-- The dies of some sites. -/
def diesOf (sites : List Nat) : List Nat := (sites.map fun i => i / 64).eraseDups

/-- No express launch that comes before this one on a die of some sites waits there for room that these sites would take. -/
def State.yieldsRoom (s : State) (l : Launch) (sites : List Nat) : Bool :=
  (diesOf sites).all fun d => (s.before l d).all fun x => s.placeable x || !s.roomComes x || s.sparesRoom x l sites

/-- The placeable launches that come before this one on a die of some sites. -/
def State.aheadOn (s : State) (l : Launch) (sites : List Nat) : List Launch :=
  (diesOf sites).flatMap fun d => (s.before l d).filter s.placeable

/-- A launch is next on every die of some sites: every placeable launch before it there has been placed, and it takes the room of
no express launch for which room is being made (R274, R276). -/
def State.clear (s : State) (l : Launch) (sites : List Nat) : Bool := (s.aheadOn l sites).isEmpty && s.yieldsRoom l sites

/-- A launch that can be placed, and whose turn it is on the dies that this model's distributor takes. -/
def State.isNext (s : State) (l : Launch) : Bool :=
  s.placeable l && (s.chooseSites l []).any fun sites => s.clear l sites

/-- As aheadOn, on the sites that this model's distributor takes. -/
def State.ahead (s : State) (l : Launch) : List Launch := ((s.chooseSites l []).map (s.aheadOn l)).getD []

/-- The launches ahead of some launches, and those ahead of these, over so many rounds. -/
def State.aheadAll (s : State) (xs : List Launch) : Nat → List Launch
  | 0 => xs
  | fuel + 1 =>
    let ys := (xs.flatMap s.ahead).filter fun y => !xs.any y.same
    if ys.isEmpty then xs else s.aheadAll (xs ++ ys) fuel

/-- A launch comes, over others, behind another. -/
def State.behind (s : State) (x l : Launch) : Bool := (s.aheadAll (s.ahead x) s.launches.length).any l.same

/-- The orders of the dies are crossed about a launch: it comes, over others, behind itself, and so does every launch ahead of it
behind this one; and none of them is next or waits for the room of an express launch. -/
def State.crossed (s : State) (l : Launch) : Bool :=
  let xs := s.aheadAll (s.ahead l) s.launches.length
  s.placeable l && xs.any l.same && xs.all fun x => s.behind x l && !s.isNext x && (s.chooseSites x []).any (s.yieldsRoom x)

/-- Where the orders of the dies are crossed, the first such launch of the leader's order comes first (DESIGN CHOICE, assumption
77). -/
def State.untied (s : State) : Option Launch := s.waitingLaunches.find? s.crossed

/-- A launch may be placed on sites: it is next on each of their dies, or the orders of the dies are crossed about it, and about
every launch that comes before it there. -/
def State.mayPlace (s : State) (l : Launch) (sites : List Nat) : Bool :=
  s.placeable l && (s.clear l sites ||
    (s.untied.any (fun x => x.same l) && s.yieldsRoom l sites && (s.aheadOn l sites).all fun x => s.behind x l))

/-- The launch of a number that waits for sites and may be placed on them. -/
def State.waiter (s : State) (q seq : Nat) (sites : List Nat) : Option Launch :=
  s.launches.find? fun l => l.q == q && l.seq == seq && s.isWaiting l && s.mayPlace l sites && s.sitesOk l sites

end Sys2Proof.Machine
end

