-- ==== Sys2Proof/Machine/EvQueue.lean ====
section
/-! DEFINITION. Events of queues and launches (R33, R37 to R43, R261 to R278, R364): enabling and doorbells, taking,
matching and placing a launch, ALLOC and GATED, completion and DONE. An event that nothing enables changes nothing. -/
namespace Sys2Proof.Machine
open Host

/-! ### Queues -/

/-- The PA of a queue's descriptor; 0 is never read where there is none. -/
def State.qpa (s : State) (q : Nat) : Nat := (s.descriptor q).getD 0

/-- CTL as the distributor writes it when it stops or does not enable a queue (R263, R264): EN 0, QERR 1. -/
def stoppedCtl (ctl : Nat) : Nat := (ctl - bitsOf ctl 0 1 - 32 * bitsOf ctl 5 1) + 32

/-- Writes CTL of a queue's descriptor. -/
def State.putCtl (s : State) (q ctl : Nat) : State := s.hbmSet (s.qpa q) (clean (leBytes 8 ctl))

/-- Writes an 8-byte field of a descriptor that the distributor keeps (R265). -/
def State.putField (s : State) (q off v : Nat) : State := s.hbmSet (s.qpa q + off) (clean (leBytes 8 v))

/-- Stops a queue (R264, R266). -/
def State.stopQueue (s : State) (q : Nat) : State :=
  (s.modQueue q fun w => { w with en := false, qerr := true }).putCtl q (stoppedCtl (s.hbmNum (s.qpa q) 8))

/-- CTL and RING admit the queue, and the reserved bytes of the descriptor (R4, R263, R266). -/
def queueOk (ctl ring rest : Nat) : Bool :=
  rest == 0 && bitsOf ctl 32 32 == 0 && bitsOf ctl 12 4 == 0 && bitsOf ctl 6 2 == 0 &&
    canonical (BitVec.ofNat 64 ring) && ring % 256 == 0

/-- Enables a queue at the write that sets EN (R263): CTL, RING and TAIL are read as they stood at that write, and HEAD and
DONE become TAIL. DESIGN CHOICE (assumption 136): a write of EN that is refused leaves HEAD and DONE as they were. -/
def State.enable (s : State) (e : CtlEvent) : State :=
  let q := e.q
  let now := s.hbmNum (s.qpa q) 8
  if queueOk e.ctl e.ring e.rest then
    let gen := ((s.queue q).map fun w => w.gen + 1).getD 0
    let w : WQueue := ⟨q, gen, true, e.ctl.testBit 1, bitsOf e.ctl 2 3, bitsOf e.ctl 8 4, bitsOf e.ctl 16 16, e.ring, e.tail,
      e.tail, false, e.tail⟩
    let s1 := { s with queues := s.queues.filter (fun (x : WQueue) => x.q != q) ++ [w] }
    ((s1.putField q 24 e.tail).putField q 32 e.tail).putCtl q (now - 32 * bitsOf now 5 1)
  else (s.modQueue q fun w => { w with en := false, qerr := true }).putCtl q (stoppedCtl now)

/-- The first change of EN of a queue that its distributor has not dealt with. -/
def State.ctlEvent (s : State) (q : Nat) : Option CtlEvent := s.ctlEvents.find? fun e => e.q = q

/-- Removes it. -/
def State.dropCtl (s : State) (q : Nat) : State :=
  { s with ctlEvents := s.ctlEvents.eraseP fun e => e.q = q }

/-- QUEUE_ENABLE (R263). -/
def execQueueEnable (q : Nat) (s : State) : Outcome State Fault Refusal :=
  .next (match s.ctlEvent q with
    | some e => if e.en && s.serves q && s.queueOpens q then (s.dropCtl q).enable e else s
    | none => s)

/-- QUEUE_DISABLE (R263): no further launch is taken. -/
def execQueueDisable (q : Nat) (s : State) : Outcome State Fault Refusal :=
  .next (match s.ctlEvent q with
    | some e => if !e.en && s.serves q then (s.dropCtl q).modQueue q fun w => { w with en := false } else s
    | none => s)

/-- DOORBELL (R264): the distributor reads TAIL; a distance beyond the ring stops the queue. DESIGN CHOICE (assumption 78): a
poisoned TAIL word, as a poisoned CTL or RING word at an enabling, is read as its plain bytes. -/
def execDoorbell (q : Nat) (s : State) : Outcome State Fault Refusal :=
  .next (if s.bells.contains q && s.serves q && s.queueOpens q && (s.ctlEvent q).isNone then
    let s1 := { s with bells := s.bells.erase q }
    match s1.queue q with
    | some w =>
      let tail := s1.hbmNum (s1.qpa q + 16) 8
      if !w.en then s1
      else if 2 ^ w.logsz < (tail + 2 ^ 64 - w.head) % 2 ^ 64 then s1.stopQueue q
      else s1.modQueue q fun w => { w with tail := tail }
    | none => s1
  else s)

/-! ### Taking a launch (R264 to R270) -/

/-- The launch of a block that its queue has delivered. -/
def takenLaunch (w : WQueue) (blk : List Byte) : Launch :=
  ⟨w.q, w.head, w.gen, w.asid, w.express, w.prio, blk, ⟨[], [], []⟩, .taken, 0, 0, 0, false⟩

/-- Takes launch HEAD of a queue: its block is read in full, HEAD advances, and the launch is checked. A launch that joins
no group is matched at once. -/
def State.take (s : State) (w : WQueue) : State :=
  match s.vread w.asid (w.ring + 256 * (w.head % 2 ^ w.logsz)) 256 2 with
  | none => s.stopQueue w.q
  | some blk =>
    let l := takenLaunch w blk
    let head := (w.head + 1) % 2 ^ 64
    let s1 := (s.modQueue w.q fun x => { x with head := head }).putField w.q 24 head
    match s.checkLaunch l with
    | .error st => { s1 with launches := s1.launches ++ [{ l with phase := .refused st false }] }
    | .ok img =>
      { s1 with launches := s1.launches ++ [{ l with img := img, phase := if l.gid = 0 then .matched else .taken }] }

/-- A write has cleared EN of a queue, and its distributor has still to deal with it. -/
def State.closing (s : State) (q : Nat) : Bool := s.ctlEvents.any fun e => e.q == q && !e.en

/-- The distributor of a queue may read launch HEAD and its image, and write HEAD, now. -/
def State.takeOpens (s : State) (w : WQueue) : Bool :=
  let at_ := w.ring + 256 * (w.head % 2 ^ w.logsz)
  s.queueOpens w.q && (s.server w.q).all fun d =>
    s.vreadOpens d w.asid at_ 256 2 && (s.vread w.asid at_ 256 2).all fun blk => s.imageOpens d (takenLaunch w blk)

/-- LAUNCH_TAKE (R265, R266, R270): none once EN has been cleared (R263). -/
def execLaunchTake (q : Nat) (s : State) : Outcome State Fault Refusal :=
  orStay s (match s.queue q with
    | some w => if w.en && w.head != w.tail && s.serves q && !s.closing q && s.takeOpens w then some (s.take w) else none
    | none => none)

/-! ### Groups (R33, R308) -/

/-- The group of an identifier has, or has had, a member on this device, and stays matched (R33, R35). -/
def State.joined (s : State) (gid : Nat) : Bool := s.groups.any fun g => g.gid == gid

/-- A launch matches the members that have been matched before it. -/
def State.matches (s : State) (l : Launch) (others : List Member) : Bool :=
  s.devSet && !s.joined l.gid && others.all fun m => m.g == l.g && m.t == l.t && m.grank != l.grank

/-- GROUP_MATCH (R33): the member is matched and takes its group rank, or is refused with RF_GROUP. -/
def execGroupMatch (q seq : Nat) (others : List Member) (s : State) : Outcome State Fault Refusal :=
  orStay s (match s.launch q seq with
    | some l =>
      if l.phase == .taken && s.serves q then
        some (if s.matches l others then
          { s.modLaunch l fun x => { x with phase := .matched } with groups := s.groups ++ [⟨l.gid, l.grank, l.q, l.seq, l.gen⟩] }
        else s.refuse l 0x106)
      else none
    | none => none)

/-! ### Placement (R36, R39, R269, R274) -/

/-- The place of a launch's contexts in it. -/
def Launch.info (l : Launch) : LaunchInfo :=
  ⟨l.t, l.shape, BitVec.ofNat 32 l.gid, l.g, l.grank, l.asid, if l.hnd then some (BitVec.ofNat 32 l.deth) else none, l.q,
    l.seq⟩

/-- A context of a launch at entry. -/
def Launch.context (l : Launch) (tract rank site : Nat) : Ctx :=
  Ctx.entry ⟨tract, rank⟩ site l.info l.part (modeAtEntry l.det l.express l.restart l.preempt)
    (BitVec.ofNat 32 (l.entry rank)) (BitVec.ofNat 64 (l.field 48 8)) l.args

/-- A new tract of a launch. -/
def Launch.tract (l : Launch) (id order : Nat) (sites : List Nat) : Tract :=
  ⟨id, l.q, l.seq, l.express, l.prio, l.t, l.shape, l.preempt, sites, .starting, none, l.req, l.floor, Grant.zero, none,
    32, 32, order, 0, true, true, false, [], false, none⟩

/-- Places a launch on sites, by rank: its contexts are in ALLOC, and an arbitration is due (R291). fresh says that it is no
reissue, and so moves the round-robin of its class and priority on the dies of the sites. -/
def State.placeOn (s : State) (l : Launch) (sites : List Nat) (fresh : Bool) : State :=
  let id := s.nextTract
  let cs := sites.zipIdx.map fun p => l.context id p.2 p.1
  let s1 := (s.wakeSites sites).modLaunch l fun x => { x with phase := .placed id }
  { s1.wantArbitration with
    ctxs := s1.ctxs ++ cs
    tracts := s1.tracts ++ [l.tract id s.orders sites]
    nextTract := id + 1
    orders := s.orders + 1
    rr := if fresh then
        let keys := ((sites.map fun i => i / 64).eraseDups).map (tierKey l)
        keys.map (fun k => (k, l.q)) ++ s1.rr.filter fun p => !keys.contains p.1
      else s1.rr
    reservations := s1.reservations.filter fun (r : Reservation) => !(r.q == l.q && r.seq == l.seq) }

/-- PLACE_LAUNCH (R274): a launch whose turn it is, on the sites that its distributor takes. -/
def execPlaceLaunch (q seq : Nat) (sites : List Nat) (s : State) : Outcome State Fault Refusal :=
  orStay s (match s.waiter q seq sites with
    | some l => if l.phase == .matched then some (s.placeOn l sites true) else none
    | none => none)

/-- REISSUE (R364): the image is read again; a launch whose image can no longer be read or accepted ends with RF_IMAGE. -/
def execReissue (q seq : Nat) (sites : List Nat) (s : State) : Outcome State Fault Refusal :=
  orStay s (match s.waiter q seq sites with
    | some l =>
      match l.phase with
      | .reissue _ =>
        if !(s.server q).all (s.imageOpens · l) then none
        else
        match s.imageFor l with
        | none => some (s.refuse l 0x105)
        | some img =>
          let l1 := { l with img := img, reissues := l.reissues + 1, swouts := 0 }
          some ((s.modLaunch l fun _ => l1).placeOn l1 sites false)
      | _ => none
    | none => none)

/-! ### Reservations (R277) -/

/-- Dies that a launch reserves. -/
def Launch.diesNeeded (l : Launch) : Nat :=
  match l.shape with
  | 1 => 1
  | 2 => 4
  | _ => (l.t + 63) / 64

/-- A die that a launch would reserve, were it free. -/
def State.suits (s : State) (l : Launch) (d : Nat) : Bool :=
  decide (d < 4) && (s.die d).inService && (l.shape != 1 || s.sitesOf d == 64)

/-- A die may be reserved for a launch: it carries no reservation. -/
def State.reservable (s : State) (l : Launch) (d : Nat) : Bool :=
  s.suits l d && s.reservations.all fun (r : Reservation) => !r.dies.contains d

/-- The launch lacks sites, and not only power (R382), and holds no reservation. -/
def State.lacksSites (s : State) (l : Launch) : Bool :=
  !l.express && s.isFresh l && (s.chooseSites l []).isNone &&
    s.reservations.all fun (r : Reservation) => !(r.q == l.q && r.seq == l.seq)

/-- A launch that comes before this one in the order of Table 11.9 waits its turn to reserve the die (R277). -/
def State.bespoken (s : State) (l : Launch) (d : Nat) : Bool :=
  (s.waitingLaunches.takeWhile fun x => !x.same l).any fun x => x.waited && s.lacksSites x && s.suits x d

/-- RESERVATION (R277): a bulk launch that has not been placeable for RESWAIT, which the agenda says, gains a reservation of
dies that carry none and for which no launch before it waits; else it waits its turn. It waits while the leader or its own
distributor is being replaced (R389). -/
def execReservation (q seq : Nat) (dies : List Nat) (s : State) : Outcome State Fault Refusal :=
  orStay s (match s.launches.find? fun l => l.q == q && l.seq == seq && s.lacksSites l with
    | some l =>
      if s.serves q && s.distributes s.leaderDie && dies.length = l.diesNeeded && decide dies.Nodup && dies.all (s.suits l) then
        some (if dies.all fun d => s.reservable l d && !s.bespoken l d then
            { s with reservations := s.reservations ++ [⟨q, seq, dies⟩] }
          else s.modLaunch l fun x => { x with waited := true })
      else none
    | none => none)

/-! ### ALLOC, GATED, RUN (R34, R37, R38, R148) -/

/-- Loads a context's code, and the initial LM data of a context that has not run yet. -/
def Ctx.loadImage (c : Ctx) (w : Wim) (data : Bool) : Ctx :=
  { c with
    istore := memoryOf [(0, w.code)]
    lm := if data then memoryOf w.data else c.lm
    status := .gated }

/-- ALLOC_DONE (R37). -/
def execAllocDone (k : CtxKey) (s : State) : Outcome State Fault Refusal :=
  orStay s (match s.ctx k, s.launchOf k.tract with
    | some c, some l =>
      if c.status = .alloc then some (s.modCtx k fun x => x.loadImage l.img (l.swouts == 0)) else none
    | _, _ => none)

/-! ### Why a tract ends (R347, R361, R363, R373) -/

/-- The rank of a tract, the lowest first, that has met a fatal fault. -/
def State.faulted (s : State) (t : Tract) : Option Ctx :=
  (sortBy (fun (c : Ctx) => [c.key.rank]) ((s.members t.id).filter fun c => c.fatal.isSome)).head?

/-- The distributor receives the reports made since the last step; of several, that of the lowest rank comes first (R347;
DEDUCED, assumption 102). -/
def State.report (s : State) : State :=
  { s with
    tracts := s.tracts.map fun (t : Tract) =>
      if t.frank.isSome then t else { t with frank := (s.faulted t).map fun c => c.key.rank } }

/-- The rank whose report ends a tract: the one received first. -/
def State.firstFault (s : State) (t : Tract) : Option Ctx :=
  match t.frank with
  | some r => (s.ctx ⟨t.id, r⟩).filter fun c => c.fatal.isSome
  | none => s.faulted t

/-- The end of a tract by the fault of one of its ranks. DESIGN CHOICE (assumption 122): FAULT of the record is read when the cause
is found. -/
def State.faultCause (s : State) (t : Tract) : Option EndCause :=
  (s.firstFault t).map fun c =>
    if (c.fatal.map fun r => r.code) = some Code.trap then ⟨1, c.trapCode.toNat, c.key.rank, c.fault⟩
    else ⟨2, 0, c.key.rank, c.fault⟩

/-- A site of the tract drains, or its die is out of service, or no grant holds its floors any more (R361, R363, R373). -/
def State.sitesFail (s : State) (t : Tract) : Bool :=
  t.sites.any (fun i => (s.site i).drain || !(s.die (i / 64)).inService) ||
    ((t.express || !t.preempt) && s.belowFloor t)

/-- A SAVED tract whose image lies beyond reach, or whose shape can no longer be met (R275, R373). -/
def State.savedFails (s : State) (t : Tract) : Bool :=
  (s.members t.id).any (fun c => t.images.any fun p => p.1 == c.key.rank && !s.spanReaches p.2 (c.imageSize false)) ||
    (s.launchOf t.id).any fun l => !s.shapeMeets l

/-- Why a tract is to end now, if it is. -/
def State.endCause (s : State) (t : Tract) : Option EndCause :=
  if t.state == .ending || t.state == .complete then none
  else if t.cause.isSome then t.cause
  else
    match s.faultCause t with
    | some c => some c
    | none =>
      if (if t.state == .saved then s.savedFails t else s.sitesFail t) then some ⟨5, 0, 0xFFFF, 0⟩ else none

/-! ### Completion (R35, R40 to R43, R272, R347, R348) -/

/-- A request of the tract is out. -/
def State.tractAsks (s : State) (t : Nat) : Bool :=
  let mine := fun (r : Req) => r.owner.any fun p => p.1.tract == t
  s.reqs.any mine || s.transit.any (fun x => mine x.req) || s.clpOut.any fun o => mine o.req

/-- Everything that a context issued has completed (R42). -/
def Ctx.done (c : Ctx) : Bool :=
  c.status == .exited && c.ops.isEmpty && c.mq.isEmpty && c.rels.isEmpty && c.latom.isNone && c.fatal.isNone

/-- An operation of an ended tract that will not go on: a cut one, or a release that waits for one. -/
def Ctx.abandoned (c : Ctx) (o : Op) : Bool :=
  o.cut.isSome || (o.isRelease && c.ops.any fun x => x.cut.isSome && decide (x.origin ≤ o.origin))

/-- An ended tract has drained, or TDRAIN has passed and what it had sent is performed. -/
def State.drained (s : State) (t : Tract) : Bool :=
  !s.tractAsks t.id && (t.drained || (s.members t.id).all fun c => c.ops.all c.abandoned)

/-- A request to a context that has completed faults, as R66 gives (R35). -/
def State.turnAway (s : State) (p : Req × Nat × Nat) : State := s.respond p.1 p.2.1 (.fail Code.remoteTarget p.2.2)

/-- Requests of others to the storage of a tract are performed no more: one that waits at its home faults there, and one that is on
its way will fault where it arrives (R35). -/
def State.turnAwayFrom (s : State) (t : Nat) : State :=
  let gone := (s.reqs.filter fun r => r.targets t).map fun r => (r, s.homeDie r, s.goneDetail r)
  gone.foldl State.turnAway { s with
    reqs := s.reqs.filter fun r => !r.targets t
    transit := s.transit.map fun (x : Crossing) =>
      if x.cargo == .ask && x.req.targets t then { x with cargo := .turned (s.goneDetail x.req) } else x }

/-- Frees a tract: its contexts go, and requests of others to its storage fault (R35, R43). -/
def State.freeTract (s : State) (t : Tract) : State :=
  let s1 := s.turnAwayFrom t.id
  { s1.wantArbitration with
    ctxs := s1.ctxs.filter fun (c : Ctx) => c.key.tract != t.id
    tracts := s1.tracts.filter fun (x : Tract) => x.id != t.id }

/-- Some tile of a tract has taken its next grant. -/
def State.nextHeld (s : State) (t : Tract) : Bool := t.next.any fun g => (s.members t.id).any fun c => c.grant == g

/-- The last grant of a tract: that which some of its tiles have taken already, else the one in effect (R272, R293). -/
def State.lastGrant (s : State) (t : Tract) : Grant := if s.nextHeld t then t.next.getD t.grant else t.grant

/-- GRANT of the record of a tract's launch (R272): a reissue that ends before its first grant keeps that of the issue before. -/
def State.grantWord (s : State) (t : Tract) (l : Launch) : Nat :=
  if t.first && !s.nextHeld t then l.grant else (s.lastGrant t).word

/-- The launch may be reissued (R364). -/
def State.reissues (s : State) (l : Launch) (c : EndCause) : Bool :=
  c.status == 5 && l.restart && l.g == 1 && decide (l.reissues < 4) && s.shapeMeets l

/-- A tract that its sites leave no future, or a SAVED one its image or shape, is to end for that, whatever it meets afterwards;
what it has met before comes first (R361, R363, R373). -/
def State.noteEnd (s : State) (t : Tract) : Tract :=
  match s.endCause t with
  | some c => if c.status = 5 then { t with cause := some c } else t
  | none => t

/-- The distributors learn, before the next turn, of the faults reported and of the tracts that are to end with SITE_FENCED. -/
def State.receive (s : State) : State :=
  let t := s.report
  { t with tracts := t.tracts.map t.noteEnd }

/-- Ends a tract's launch (R42): its record, with the tract on its sites until DONE has advanced; or a reissue to come. -/
def State.finishTract (s : State) (t : Tract) (l : Launch) (c : EndCause) : State :=
  let g := s.grantWord t l
  if s.reissues l c then
    { (s.modLaunch l fun x => { x with phase := .reissue s.orders, grant := g }).freeTract t with orders := s.orders + 1 }
  else
    ((s.writeRecord l (recordBytes l c g)).modLaunch l fun x => { x with phase := .written t.id, grant := g }).modTract t.id
      fun x => { x with state := .complete }

/-- LAUNCH_COMPLETE (R42, R347). A tract that is to end does not complete (R363, R373). -/
def execLaunchComplete (t : Nat) (s : State) : Outcome State Fault Refusal :=
  orStay s (match s.tract t, s.launchOf t with
    | some x, some l =>
      if !s.serves l.q || !s.recordOpens l then none
      else
        match x.state, x.cause with
        | .running, none =>
          if (s.members t).all Ctx.done && !s.tractAsks t && (s.endCause x).isNone then
            some (s.finishTract x l ⟨0, 0, 0xFFFF, 0⟩)
          else none
        | .ending, some c => if s.drained x then some (s.finishTract x l c) else none
        | _, _ => none
    | _, _ => none)

/-- Drops a launch that has ended and advanced, and frees its tract (R42). The group of which it is the only member is matched no
longer (R35); a launch that was refused has joined none (R33). -/
def State.dropLaunch (s : State) (l : Launch) : State :=
  let s1 := { s with
    launches := s.launches.filter fun (x : Launch) => !x.same l
    groups := s.groups.filter fun (g : Group) => !(l.g == 1 && g.q == l.q && g.seq == l.seq && g.gen == l.gen) }
  match l.phase with
  | .written t =>
    match s1.tract t with
    | some x => s1.freeTract x
    | none => s1
  | _ => s1

/-- A record still to be written for a launch that ended without a tract. -/
def Launch.unwritten (l : Launch) : Option (Nat × Bool) :=
  match l.phase with
  | .refused st was => some (st, was)
  | _ => none

/-- A launch whose record is written. -/
def Launch.isOver (l : Launch) : Bool :=
  match l.phase with
  | .over _ | .written _ => true
  | _ => false

/-- A launch that ended without a tract has its record written. -/
def State.writeRefusal (s : State) (l : Launch) : State :=
  let st := l.unwritten.getD (0, false)
  (s.writeRecord l (recordBytes l ⟨st.1, 0, 0xFFFF, 0⟩ l.grant)).modLaunch l fun x => { x with phase := .over st.2 }

/-- DONE of a queue advances for a launch, and then the slots of its tract come free (R42). A launch taken before the queue was
last enabled advances no DONE. -/
def State.advance (s : State) (w : WQueue) (l : Launch) : State :=
  if l.gen = w.gen then
    let done := (w.done + 1) % 2 ^ 64
    ((s.modQueue w.q fun x => { x with done := done }).putField w.q 32 done).dropLaunch l
  else s.dropLaunch l

/-- DONE_ADVANCE (R273): first the record of a launch that ended without a tract; then, in launch order, DONE. -/
def execDoneAdvance (q : Nat) (s : State) : Outcome State Fault Refusal :=
  orStay s (if !s.serves q || !s.queueOpens q then none
    else
      match s.launches.find? fun l => l.q = q && l.unwritten.isSome with
      | some l => if s.recordOpens l then some (s.writeRefusal l) else none
      | none =>
        match s.queue q with
        | some w =>
          (s.launches.find? fun l => l.q = q && l.isOver && (l.gen != w.gen || l.seq == w.done)).map (s.advance w)
        | none => none)

end Sys2Proof.Machine
end

