-- ==== Sys2Proof/Machine/EvTract.lean ====
section
/-! DEFINITION. Events of tracts (R46 to R49, R278, R347 to R351, R353 to R355, R361, R363, R373, R383, R392, R393): the
quantum, switching out and in, ending and draining. An event that nothing enables changes nothing. -/
namespace Sys2Proof.Machine
open Host

/-! ### The quantum (R171, R278) -/

/-- A bulk tract that may be switched out at all (R46). -/
def Tract.switchable (t : Tract) : Bool := t.state == .running && !t.express && t.preempt && t.cause.isNone

/-- QUANTUM_END (R278): the test, made at the end of a quantum and at a YIELD. -/
def execQuantumEnd (t : Nat) (s : State) : Outcome State Fault Refusal :=
  orStay s (match s.tract t with
    | some x =>
      if x.switchable && s.distUp x then
        let leaves := s.wanted x
        some ((s.modTract t fun y => { y with quantumOver := leaves }).modMembers t fun (c : Ctx) => { c with yielded := false })
      else none
    | none => none)

/-! ### Switching out (R47, R353, R392) -/

/-- A tract is to leave for an express launch or for power (R46, R290, R383); one that keeps its grant waits (R316). -/
def State.chosen (s : State) (t : Tract) : Bool :=
  !s.frozen t && (s.expressVictims ++ s.powerVictims).any fun x => x.id == t.id

/-- A reason to switch a tract out holds. -/
def State.mustLeave (s : State) (t : Tract) : Bool := t.quantumOver || s.belowFloor t || s.chosen t

/-- The units in progress of a context are abandoned, but those that on names (R235). The slices of an abandoned MMAG step are
supplied again when it starts again; those of a step that the context has completed stay on their way to the members that have not
(assumption 80). -/
def Ctx.abandonUnits (c : Ctx) (on : MEntry → Bool) : Ctx :=
  let keeps := c.mq.any fun m => isMmag m.ins && m.running && on m
  { c with
    mq := c.mq.map fun (m : MEntry) => if on m then m else { m with running := false, active := false }
    mmagOut := if keeps then c.mmagOut else c.mmagOut.filter fun x => x.step != c.mmagStep }

/-- The member that sent a slice has completed its step, and will not supply it again. -/
def State.sentForGood (s : State) (t : Nat) (x : Slice) : Bool :=
  (s.ctx ⟨t, x.sender⟩).any fun f => decide (x.step < f.mmagStep)

/-- The units of a tract are abandoned, but those that go on for a held LATOM, whose result is to land first (R235; assumption
97): while steps go on, the slices received stay. -/
def State.abandonAll (s : State) (t : Nat) (steps : Bool) (on : Ctx → MEntry → Bool) : State :=
  s.modMembers t fun (c : Ctx) =>
    let c1 := c.abandonUnits (on c)
    if steps then c1 else { c1 with mmagIn := c1.mmagIn.filter (s.sentForGood t) }

/-- Every rank of a tract stops at a bundle boundary: its results land, and its unit in progress is abandoned, unless it goes on
for a held LATOM (R47, R235). -/
def State.stopAll (s : State) (t : Nat) : State :=
  let s1 := s.modMembers t Ctx.landAll
  let steps := s1.stepsNeeded t && !s1.stepsStall t
  s1.abandonAll t steps fun c m => s1.entryGoesOn c m && (steps || !isMmag m.ins)

/-- A tract begins to leave: room is set aside for its images, issue stops, and the engines send no further granule. None where
the save region is full. -/
def State.beginLeaving (s : State) (x : Tract) : Option State :=
  (s.roomForAll (x.q / 32768) false (s.members x.id)).map fun r =>
    (r.1.modTract x.id fun y => { y with state := .saving, images := r.2, quantumOver := false }).stopAll x.id

/-- SWITCH_OUT (R47). A tract that is to end is not switched out (R347, R363, R373). -/
def execSwitchOut (t : Nat) (s : State) : Outcome State Fault Refusal :=
  orStay s (match s.tract t with
    | some x =>
      if x.switchable && s.mustLeave x && s.distUp x && (s.endCause x).isNone then s.beginLeaving x else none
    | none => none)

/-! ### Leaving GATED (R34, R37, R38, R383) -/

/-- A context goes to RUN, or waits on with a SYS request pending; CLOCK and REPLAYS restart (R186). An EXITED one stays. -/
def Ctx.enterRun (c : Ctx) : Ctx :=
  if c.status = .exited then { c with yielded := false }
  else { c with status := if c.sys.isSome then .waiting else .run, yielded := false, clock := 0, replays := 0 }

/-- The ranks of a tract go to RUN. No replay of what they issued before is to come (R299). -/
def State.startRanks (s : State) (t : Nat) : State :=
  let s1 := (s.modTract t fun y => { y with state := .running, quantumOver := false }).modMembers t Ctx.enterRun
  { s1 with sites := s1.sites.map fun (x : Site) => { x with last := x.last.filter fun k => k.tract != t } }

/-- A tract that R383 switches out as it leaves GATED: a pre-emptible bulk tract, while the floors exceed the cap (DESIGN CHOICE,
assumption 79). -/
def State.passesOn (s : State) (x : Tract) : Bool := x.yields && !s.floorsFit && s.hasRoom x

/-- No tract leaves before this one for power (R383), and it may leave now (R316). -/
def State.leavesNext (s : State) (x : Tract) : Bool :=
  s.leaving.isEmpty && s.arbiterUp && s.distUp x && !s.frozen x && s.powerVictims.all fun y => y.id == x.id

/-- TRACT_START (R34, R38). -/
def execTractStart (t : Nat) (peersReady : Bool) (s : State) : Outcome State Fault Refusal :=
  orStay s (match s.tract t, s.launchOf t with
    | some x, some l =>
      if s.startable x && (l.g == 1 || peersReady) then
        if s.passesOn x then if s.leavesNext x then (s.startRanks t).beginLeaving x else none
        else some (s.startRanks t)
      else none
    | _, _ => none)

/-! ### SAVED (R47, R354) -/

/-- Every granule that an operation has sent is performed, and no fault of it waits. An MCAST with targets left is cut with
the fault that a target has met (R259, R392). -/
def Op.quiet (o : Op) : Bool :=
  o.out == 0 && (o.fault.isNone || o.cut.isSome || (o.kind == .mcast && !o.allSent))

/-- The ways from the dies of a list, and from the die of the queue, into the save region of a tract carry requests (R366,
R368). -/
def State.regionOpens (s : State) (t : Tract) (sites : List Nat) : Bool :=
  let d := t.q / 32768
  let n := s.saveEnd d - s.saveBase d
  n == 0 || (d :: sites.map fun i => i / 64).all fun k => !(s.die k).inService || s.opens k (s.saveBase d) n

/-- A request to the storage of a tract is on its way, or waits at its home. -/
def State.sought (s : State) (t : Nat) : Bool :=
  s.reqs.any (fun r => r.targets t) || s.transit.any fun x => x.cargo == .ask && x.req.targets t

/-- A saving tract may be saved: every result has landed, but that of a LATOM whose release waits for what only the context or
its tract can continue (DEDUCED, assumption 97), nothing that its engines have sent is out, and the way of its images is open.
DESIGN CHOICE (assumption 131): requests that have been sent to its storage are performed before it changes its home. -/
def State.savable (s : State) (t : Tract) : Bool :=
  t.state == .saving && (s.endCause t).isNone && !s.tractAsks t.id && !s.sought t.id && s.regionOpens t t.sites &&
    (s.members t.id).all fun c => !s.latomWaits c && c.ops.all Op.quiet

/-- A SAVED context keeps its partitions and its events in its image. -/
def Ctx.leaveSite (c : Ctx) : Ctx :=
  { c with
    status := .saved, site := 256, events := 0, lm := [], ts := [], as := [], istore := []
    poisonLm := [], poisonTs := [], poisonAs := [], poisonSem := [], poisonIs := [] }

/-- Writes the images of a tract's contexts. -/
def State.writeImages (s : State) (t : Tract) : State :=
  t.images.foldl (fun u p =>
    match u.ctx ⟨t.id, p.1⟩ with
    | some c => u.writeImage c p.2 false
    | none => u) s

/-- TRACT_SAVED (R47, R354): the images are written, and the sites come free. A unit that had gone on for a held LATOM is
abandoned (R235). -/
def execTractSaved (t : Nat) (s : State) : Outcome State Fault Refusal :=
  orStay s (match s.tract t with
    | some x =>
      if s.savable x && s.distUp x then
        let s1 := ((s.writeImages x).abandonAll t false fun _ _ => false).modMembers t Ctx.leaveSite
        let s2 := s1.modTract t fun y =>
          { y with
            state := .saved, sites := [], left := s.orders, next := none, grant := s.lastGrant x }
        let s3 := { s2.wantArbitration with orders := s.orders + 1 }
        some (match s3.launchOf t with
          | some l => s3.modLaunch l fun z => { z with swouts := z.swouts + 1 }
          | none => s3)
      else none
    | none => none)

/-! ### Switching in (R355, R393) -/

/-- Every image of a tract is one that a switch-in accepts. -/
def State.imagesOk (s : State) (t : Tract) : Bool := t.images.all fun p => s.imageOk p.2

/-- A context restored from its image on its new site. -/
def State.comeBack (s : State) (t : Tract) (sites : List Nat) (c : Ctx) : Ctx :=
  match t.images.find? fun p => p.1 = c.key.rank with
  | some p => (s.restore c p.2 (sites.getD c.key.rank 256)).event evSwi
  | none => c

/-- Restores a SAVED tract on sites. DESIGN CHOICE (assumption 123): a switch-in counts as a placement where R278 takes the most
recently placed. -/
def State.switchIn (s : State) (t : Tract) (sites : List Nat) : State :=
  let s1 := (s.wakeSites sites).modMembers t.id (s.comeBack t sites)
  let s2 := t.images.foldl (fun u p => u.dropImage (t.q / 32768) p.2) s1
  let s3 := s2.modTract t.id fun y =>
    { y with state := .starting, sites := sites, images := [], renew := true, order := s.orders }
  { s3.wantArbitration with orders := s.orders + 1 }

/-- SWITCH_IN (R393): a tract with an image that is refused ends with ST_SAVEBAD (R355); one with an image beyond reach is not
switched in, and ends (R373). Requests that have been sent to its images come first (DESIGN CHOICE, assumption 131). -/
def execSwitchIn (t : Nat) (sites : List Nat) (s : State) : Outcome State Fault Refusal :=
  orStay s (match s.launchOf t with
    | some l =>
      match s.savedTract l with
      | some x =>
        if s.mayPlace l sites && s.sitesOk l sites && !s.savedFails x && !s.sought x.id && s.regionOpens x sites then
          some (if s.imagesOk x then s.switchIn x sites
            else s.modTract t fun y => { y with cause := some ⟨6, 0, 0xFFFF, 0⟩ })
        else none
      | none => none
    | none => none)

/-! ### Ending (R347, R351) -/

/-- A context of an ended tract: its M units, its cut operations and those that have not started are abandoned (R347, R352). -/
def Ctx.finishAll (c : Ctx) : Ctx :=
  { c with
    mq := [], mmagOut := [], mmagIn := [], rels := [], latom := none, inflight := [], sys := none
    ops := c.ops.filter fun o => o.started && !c.abandoned o }

/-- Writes a context's teardown image where the save region has room (R347, R353). -/
def State.tearDown (s : State) (d : Nat) (c : Ctx) : State :=
  match s.roomFor d c true with
  | some (t, pa) => t.writeImage c pa true
  | none => s

/-- Requests of contexts on a die out of service are abandoned (R373). -/
def State.abandonLost (s : State) (t : Tract) : State :=
  let lost := fun (k : CtxKey) => k.tract == t.id && s.ctxLost k
  let mine := fun (r : Req) => r.owner.any fun p => lost p.1
  { s with
    reqs := s.reqs.filter fun r => !mine r
    transit := s.transit.filter fun (x : Crossing) => !mine x.req
    clpOut := s.clpOut.filter fun (o : ClpOut) => !mine o.req
    ctxs := s.ctxs.map fun (c : Ctx) => if lost c.key then { c with ops := [] } else c }

/-- Discards the images of a tract. -/
def State.dropImages (s : State) (t : Tract) : State := t.images.foldl (fun u p => u.dropImage (t.q / 32768) p.2) s

/-- Ends a tract that holds sites: issue stops, results land, and teardown images are written. -/
def State.endResident (s : State) (t : Tract) : State :=
  let s1 := (s.dropImages t).stopAll t.id
  let s2 := (s1.members t.id).foldl (fun u c => u.tearDown (t.q / 32768) c) s1
  (s2.modMembers t.id Ctx.finishAll).abandonLost t

/-- A context of a SAVED tract with the register state that its image holds. -/
def State.fromImage (s : State) (t : Tract) (c : Ctx) : Ctx :=
  match t.images.find? fun p => p.1 = c.key.rank with
  | some p => s.restore c p.2 c.site
  | none => c

/-- Ends a SAVED tract: it is discarded with its images. Where a fault or the end of a peer ends it, under R347, a teardown image
of each context is written (R349); a TKILL (R350), a shape that can no longer be met (R275) and an image that is beyond reach or
refused (R355, R373) leave none. -/
def State.endSaved (s : State) (t : Tract) (c : EndCause) : State :=
  let s1 := s.dropImages t
  let s2 := if c.status ≤ 3 then
      ((s.members t.id).map (s.fromImage t)).foldl (fun u c => u.tearDown (t.q / 32768) c) s1
    else s1
  let s3 := s2.turnAwayFrom t.id
  { s3 with ctxs := s3.ctxs.filter fun (c : Ctx) => c.key.tract != t.id }

/-- The peers of a group learn of a member's end, unless a peer's end is its cause. -/
def State.tellEnd (s : State) (t : Tract) (c : EndCause) : State :=
  match s.launchOf t.id with
  | some l => if c.status = 3 then s else s.tellPeers l
  | none => s

/-- A grant that is about to take effect falls in some domain: it belongs to phase 1 (R292). The grant of a tract that is
being placed or switched in belongs to phase 2 (R293). -/
def Tract.falls (t : Tract) : Bool :=
  match t.next with
  | some g => !t.renew && (List.zip g.steps t.grant.steps).any fun p => decide (p.1 < p.2)
  | none => false

/-- A member holds a LATOM whose result has still to land (R137, R347). One on a lost die is abandoned with it. -/
def State.landsLater (s : State) (t : Tract) : Bool :=
  (t.state == .running || t.state == .saving) && (s.members t.id).any fun c => s.latomWaits c && !s.ctxLost c.key

/-- The end of a tract waits: for results in flight, for the end of a hand-over of the distributor that writes the directory (R316,
R353), or for the way of the images (R366, R368). -/
def State.endWaits (s : State) (t : Tract) : Bool := s.landsLater t || !s.distUp t || !s.regionOpens t t.sites

/-- TRACT_END (R347): issue stops, and once nothing is left to wait for, the tract ends. A fall of a grant still takes effect:
phase 2 waits for it while the tract counts (R292). -/
def execTractEnd (t : Nat) (s : State) : Outcome State Fault Refusal :=
  orStay s (match s.tract t with
    | some x =>
      match s.endCause x with
      | some c =>
        if s.endWaits x then some (s.modTract t fun y => { y with cause := some c })
        else
        let s1 := if x.state == .saved then s.endSaved x c else s.endResident x
        let next := if x.counted && x.falls then x.next else none
        some ((s1.modTract t fun y =>
          { y with
            state := .ending, cause := some c, images := [], next := next
            grant := if next.isSome then y.grant else s.lastGrant x
            first := x.first && !s.nextHeld x }).tellEnd x c)
      | none => none
    | none => none)

/-- A read has not yet taken its value. -/
def Req.isRead (r : Req) : Bool :=
  match r.kind with
  | .read .. => true
  | _ => false

/-- What TDRAIN leaves of a context: its operations and its held LATOM are abandoned. -/
def Ctx.drainOver (c : Ctx) : Ctx := { c with ops := [], latom := none, inflight := c.inflight.filter fun e => !e.held }

/-- TDRAIN_EXPIRY (R348): operations not complete are abandoned; what they have sent is still performed. -/
def execTdrainExpiry (t : Nat) (s : State) : Outcome State Fault Refusal :=
  orStay s (match s.tract t with
    | some x =>
      if x.state == .ending || (x.cause.isSome && s.landsLater x) then
        let stale := fun (r : Req) => r.isRead && r.owner.any fun p => p.1.tract == t
        let s1 := { s with
          reqs := s.reqs.filter fun r => !stale r
          transit := s.transit.filter fun (x : Crossing) => !stale x.req
          clpOut := s.clpOut.filter fun (o : ClpOut) => !stale o.req }
        some ((s1.modTract t fun y => { y with drained := true }).modMembers t Ctx.drainOver)
      else none
    | none => none)

/-- Marks a tract to be ended with a status and no rank (R347), unless a cause for its end has been found before. -/
def State.endWith (s : State) (t status : Nat) : State :=
  s.modTract t fun x =>
    if x.state == .ending || x.state == .complete then x
    else { x with cause := some ((s.endCause x).getD ⟨status, 0, 0xFFFF, 0⟩) }

/-- A launch is a member of a group that the news of a peer's end concerns. -/
def Launch.inGroup (l : Launch) (gid : Word32) : Bool := gid != 0 && l.gid == gid.toNat && decide (2 ≤ l.g)

/-- PEER_END_NEWS (R349): every other member of the group ends with ST_PEER. The news waits for a member whose distributor is in a
hand-over (R316, R389). -/
def execPeerEndNews (gid : Word32) (s : State) : Outcome State Fault Refusal :=
  let mine := s.launches.filter fun l => l.inGroup gid
  let late := mine.any fun l => s.queueHeld l.q && (l.phase == .matched || (match l.phase with
    | .placed _ => true
    | _ => false))
  .next ((mine.filter fun l => !s.queueHeld l.q).foldl (fun u l =>
      match l.phase with
      | .matched => u.turnDown l 3
      | .placed t => u.endWith t 3
      | _ => u)
    (if late then { s with deferred := s.deferred ++ [.peerEndNews gid] } else s))

end Sys2Proof.Machine
end

