-- ==== Sys2Proof/Machine/EvPower.lean ====
section
/-! DEFINITION. Events of power and margins (R289 to R303, R359 to R361, R380 to R385): arbitration and grants, byte
budgets, coolant, over-current, thermal trips, Glen's windows and the Steppe generations. An event that nothing enables
changes nothing. -/
namespace Sys2Proof.Machine
open Host

/-! ### Grants (R289 to R293) -/

/-- The result of an arbitration for a tract: its next grant, if it takes one. -/
def Tract.arbitrated (t : Tract) (r : List Nat × Nat × Nat) : Tract :=
  { t with
    lam := r.2.1
    mu := r.2.2
    next := if t.first then some (grantOf r.1 0)
      else if t.renew || r.1 != t.grant.steps then some (grantOf r.1 ((t.grant.gseq + 1) % 2 ^ 32))
      else none }

/-- The result of the arbitration for a tract. -/
def resultOf (rs : List (Nat × List Nat × Nat × Nat)) (t : Tract) : Option (List Nat × Nat × Nat) :=
  (rs.find? fun r => r.1 = t.id).map Prod.snd

/-- The model with the steps of an arbitration. -/
def State.modelAfter (s : State) (rs : List (Nat × List Nat × Nat × Nat)) : Nat :=
  modelOf s.tracts fun t => ((resultOf rs t).map Prod.fst).getD t.heldSteps

/-- A grant that is kept in a hand-over would have to change: its tract is being placed or switched in, a ceiling has fallen below
it (R361), or the others cannot meet the cap beside it (Table 13.8). -/
def State.arbitrationWaits (s : State) (rs : List (Nat × List Nat × Nat × Nat)) : Bool :=
  s.tracts.any (fun t => t.counted && s.frozen t &&
    (t.renew || (List.zip t.heldSteps (s.ceilings t.sites)).any fun p => decide (p.2 < p.1))) ||
    (s.tracts.any s.frozen && decide (s.saddle.capMw < s.modelAfter rs))

/-- A grant that is kept in a hand-over would change, were it not kept: an arbitration stays due (R316). -/
def State.keepsGrants (s : State) : Bool :=
  let rs := s.arbitrationOf fun _ => false
  s.tracts.any fun t => s.frozen t && (resultOf rs t).any fun r => r.1 != t.grant.steps

/-- ARBITRATE (R289, R291, R383): new levels, and the grants that are to take effect. DESIGN CHOICE (assumption 109): an
arbitration that falls due while grants of the one before are being applied waits until each of them is in effect on every tile.
-/
def execArbitrate (s : State) : Outcome State Fault Refusal :=
  orStay s (
    let rs := s.arbitration
    if s.saddle.pending && s.arbiterUp && s.tracts.all (fun t => t.next.isNone || s.frozen t) && s.powerVictims.isEmpty &&
        (s.floorsFit || s.leaving.isEmpty) && !s.arbitrationWaits rs then
      let tracts := s.tracts.map fun t =>
        match resultOf rs t with
        | some r => t.arbitrated r
        | none => t
      some { s with
        tracts := tracts
        saddle := { s.saddle with pending := s.keepsGrants, uflr := tracts.any fun t => t.counted && decide (t.mu < 32) } }
    else none)

/-- The grant of a tract is in effect on all of its tiles. -/
def State.settleGrant (s : State) (t : Nat) (g : Grant) : State :=
  if (s.members t).all fun c => c.grant == g then
    s.modTract t fun x => { x with grant := g, next := none, first := false, renew := false }
  else s

/-- A tile of a tract takes a grant: RATIO shows it, with EV.RAT but for a first grant (R165, R293), and the clocks of its site,
whose regulator has settled, run at its steps (R301). -/
def State.takeGrant (s : State) (c : Ctx) (t : Tract) (g : Grant) : State :=
  let u := (s.modCtx c.key fun (x : Ctx) =>
    if t.first then { x with grant := g } else ({ x with grant := g } : Ctx).event evRat).settleGrant t.id g
  u.modSite c.site fun x => { x with clock := u.effective c.site }

/-- GRANT_TAKE_EFFECT (R292, R293): on one tile, the falling grants of all tracts first; where the steps rise, the regulator settles
before (R301). A grant of a tract with a tile on a die whose Saddle agent is being replaced waits (R316, R389). -/
def execGrantTakeEffect (k : CtxKey) (s : State) : Outcome State Fault Refusal :=
  orStay s (match s.ctx k, s.tract k.tract with
    | some c, some t =>
      match t.next with
      | some g =>
        if (c.grant != g || (s.members t.id).all fun x => x.grant == g) && (t.falls || !s.tracts.any Tract.falls) &&
            !s.frozen t then
          let u := s.takeGrant c t g
          some (if covers (s.site c.site).volt (u.effective c.site) then u else s.regulate c.site)
        else none
      | none => none
    | _, _ => none)

/-! ### Byte budgets (R294, R295) -/

/-- BUDGET_WINDOW (R294). -/
def execBudgetWindow (a : Arbiter) (s : State) : Outcome State Fault Refusal :=
  let fresh := fun (x : Arb) => { x with spent := [] }
  .next (match a with
    | .channel ch => s.modChan ch fun x => { x with arb := fresh x.arb }
    | .link die true => s.modEdge (die % 4) fun e => { e with arbA := fresh e.arbA }
    | .link die false => s.modEdge ((die + 3) % 4) fun e => { e with arbB := fresh e.arbB })

/-- Sets BF of a die; a change sets EV.BUD in its bulk contexts. -/
def State.setBf (s : State) (d v : Nat) : State :=
  if (s.die d).bf = v then s
  else (s.modDie d fun x => { x with bf := v }).eventAll evBud fun c =>
    !c.express && c.status != .saved && c.site / 64 == d

/-- BF after a comparison of the measured power with a quarter of the cap. -/
def nextBf (bf mw cap : Nat) : Nat :=
  if cap * 1000 < 4 * mw then max 4 (bf - 8)
  else if 400 * mw < 95 * (cap * 1000) then min 64 (bf + 1)
  else bf

/-- The Saddle agent of a die runs: stage POWER has come, and its image is loaded (R310). -/
def State.agentRuns (s : State) (d : Nat) : Bool := decide (3 ≤ (s.die d).stage) && ((s.die d).fw.getD 2 none).isSome

/-- Glen runs on a die: stage MARGIN has come, and its image is loaded (R310). -/
def State.glenRuns (s : State) (d : Nat) : Bool := decide (2 ≤ (s.die d).stage) && ((s.die d).fw.getD 1 none).isSome

/-- BUDGET_ADJUST (R295): while the over-current clamp holds, or the agent is being replaced or not there yet, BF stays. DESIGN
CHOICE (assumption 110): "the cap" of the comparison is the cap in force, not the one lowered by 10 % with which R384 has Saddle
arbitrate. -/
def execBudgetAdjust (die mw : Nat) (s : State) : Outcome State Fault Refusal :=
  .next (if (s.die die).ocl || s.handingOver die 3 || !s.agentRuns die then s
    else s.setBf die (nextBf (s.die die).bf mw s.saddle.cap))

/-! ### Coolant (R296, R297, R380, R381) -/

/-- A row of Table 12.1: nominal cap, full-cap inlet, derating, highest admitted inlet, least flow in 1/10 L/min. -/
structure Limits where
  nominal : Int
  fullTo : Int
  derate : Int
  highest : Int
  flow : Option Int
deriving DecidableEq, Repr

/-- Table 12.1. -/
def limitsOf : Cooling → Limits
  | .coldPlate => ⟨3200, 40, 40, 50, some 12⟩
  | .immersion => ⟨3400, 45, 40, 55, some 40⟩
  | .air => ⟨1500, 25, 25, 35, none⟩

/-- The cap of R297 for an inlet in 1/16 degree, rounded up to whole degrees. -/
def Limits.capFor (x : Limits) (inlet : Int) : Nat := (x.nominal - x.derate * max 0 (-(-inlet / 16) - x.fullTo)).toNat

/-- A report that R380 calls implausible. -/
def Saddle.implausible (x : Saddle) (r : Coolant) : Bool :=
  decide (r.inlet < -160) || decide (1440 < r.inlet) ||
    (x.lastInlet.any fun p => decide (80 < r.inlet - p) || decide (80 < p - r.inlet)) ||
    ((limitsOf x.cooling).flow.isSome && decide (r.flow < 0))

/-- A report beyond the limits of R381. -/
def Saddle.outside (x : Saddle) (r : Coolant) : Bool :=
  let m := limitsOf x.cooling
  decide (m.highest * 16 < r.inlet) || m.flow.any fun f => decide (r.flow < f)

/-- Puts a cap in force; a change starts an arbitration. -/
def State.setCap (s : State) (cap : Nat) : State :=
  if s.saddle.cap = cap then s else { s with saddle := { s.saddle with cap := cap, pending := true } }

/-- The last report that gave a value: its inlet, and its flow where the method reads it (R296, R380). -/
def Saddle.note (x : Saddle) (r : Coolant) : Saddle :=
  { x with lastInlet := some r.inlet, lastFlow := if (limitsOf x.cooling).flow.isSome then some r.flow else none }

/-- A missing or implausible report: after three in a row, the fallback. -/
def State.badReport (s : State) (r : Option Coolant) : State :=
  let bad := s.saddle.bad + 1
  let x := match r with
    | some v => s.saddle.note v
    | none => s.saddle
  let s1 := { s with saddle := { x with bad := bad, good := 0 } }
  if 3 ≤ bad then
    ({ s1 with saddle := { s1.saddle with fallback := true } } : State).setCap Config.fbcap
  else s1

/-- A plausible report. -/
def State.goodReport (s : State) (r : Coolant) : State :=
  let x := s.saddle
  let good := x.good + 1
  let fallback := x.fallback && decide (good < 10)
  let beyond := x.outside r
  let s1 := { s with
    saddle := { x.note r with bad := 0, good := good, fallback := fallback, beyond := beyond, inlet := r.inlet } }
  let cap := (limitsOf x.cooling).capFor r.inlet
  if beyond || fallback then s1.setCap Config.fbcap
  else if x.fallback || x.beyond || decide (x.cap + 10 ≤ cap) || decide (cap + 10 ≤ x.cap) then s1.setCap cap
  else s1

/-- The die whose I3C instance is the active controller of the sideband: Q0, or Q2 once Q0 has left service (R22, R374). -/
def State.sideband (s : State) : Option Nat := [0, 2].find? fun d => (s.die d).inService

/-- Saddle reads the sideband: the module has come to stage POWER, the leader's agent has its image, and an I3C controller is in
service (R22, R310). -/
def State.readsCoolant (s : State) : Bool :=
  s.powered && s.agentRuns s.leaderDie && s.sideband.isSome

/-- COOLANT_REPORT: none is a missing report. It waits while the leader's Saddle agent is being replaced (R389; DESIGN CHOICE,
assumption 81). -/
def execCoolantReport (r : Option Coolant) (s : State) : Outcome State Fault Refusal :=
  .next (if !s.readsCoolant then s
  else if !s.arbiterUp then { s with deferred := s.deferred ++ [.coolantReport r] }
  else
    match r with
    | none => s.badReport none
    | some x => if s.saddle.implausible x then s.badReport (some x) else s.goodReport x)

/-! ### Over-current and thermal trips (R384, R385) -/

/-- OVERCURRENT_CHECK: two measurements in a row above a third of the cap clamp BF to 4. -/
def execOvercurrentCheck (die mw : Nat) (s : State) : Outcome State Fault Refusal :=
  .next (if s.saddle.cap * 1000 < 3 * mw then
    let hits := (s.die die).ocHits + 1
    let s1 := s.modDie die fun x => { x with ocHits := hits }
    if 2 ≤ hits then
      let s2 := (s1.modDie die fun x => { x with ocl := true, bf := 4 })
      if (s.die die).ocl then s2
      else s2.eventAll evBud fun c => !c.express && c.status != .saved && c.site / 64 == die
    else s1
  else s.modDie die fun x => { x with ocHits := 0 })

/-- OCL_RELEASE: after 100 µs without an excess. -/
def execOclRelease (die : Nat) (s : State) : Outcome State Fault Refusal :=
  .next (if (s.die die).ocl && (s.die die).ocHits == 0 then s.modDie die fun x => { x with ocl := false } else s)

/-- OVERCURRENT_CAP_CUT: on some die, an excess of 1 ms with BF at 4. -/
def execOvercurrentCapCut (s : State) : Outcome State Fault Refusal :=
  .next (if s.dies.any (fun x => x.ocl && x.bf == 4 && decide (2 ≤ x.ocHits)) && !s.saddle.ocCut then
    { s with saddle := { s.saddle with ocCut := true, pending := true } } else s)

/-- OVERCURRENT_CAP_RESTORE: after 100 ms without an excess. -/
def execOvercurrentCapRestore (s : State) : Outcome State Fault Refusal :=
  .next (if s.saddle.ocCut && s.dies.all (fun x => x.ocHits == 0) then
    { s with saddle := { s.saddle with ocCut := false, pending := true } } else s)

/-- THERMAL_TRIP: 115 °C. The clocks are held at step 0. -/
def execThermalTrip (site : Nat) (deg : BitVec 16) (s : State) : Outcome State Fault Refusal :=
  .next (if decide (0x730 ≤ deg.toInt) && !(s.site site).tripped then
    (s.modSite site fun x => { x with tripped := true, clock := [0, 0, 0, 0] }).modDie (site / 64) fun x =>
      { x with trips := (x.trips + 1) % 2 ^ 16 }
  else s)

/-- TRIP_RELEASE: below 105 °C. -/
def execTripRelease (site : Nat) (deg : BitVec 16) (s : State) : Outcome State Fault Refusal :=
  .next (if decide (deg.toInt < 0x690) then s.modSite site fun x => { x with tripped := false } else s)

/-! ### Glen (R300, R359, R360, R362) -/

/-- Bits of ERRSUM (Table 17.1). -/
def stSite : Nat := 0
def stLink : Nat := 1
def stDie : Nat := 2
def stPort : Nat := 3
def stHbm : Nat := 4

/-- Sets a sticky bit of a die. -/
def State.stick (s : State) (d n : Nat) : State := s.modDie d fun x => { x with sticky := x.sticky ||| BitVec.twoPow 5 n }

/-- A point that would have to rise above 0.85 V: it stays at code 0xFF, and the ceiling falls below its step; a ceiling
below 8 has the site fenced instead. -/
def State.escalate (s : State) (site dom step : Nat) : State :=
  let low := decide (step < 9)
  ((s.modSite site fun x =>
    { x with
      pts := modTable x.pts dom step fun _ => 320
      esc := min 255 (x.esc + 1)
      wantFence := x.wantFence || low
      ceil := if low then x.ceil else modAt x.ceil dom fun c => min c (step - 1) }).stick (site / 64) stSite).wantArbitration

/-- Adjusts a point after a window: more than 16 replays raise it, eight windows of at most 4 lower it. DESIGN CHOICE (assumption
125): under a negative ageing offset a point may itself rise above 0.85 V, and a generation stores it as code 0xFF. DESIGN CHOICE
(assumption 138): once a point has been lowered, the run of eight windows starts over. -/
def State.learn (s : State) (site dom step replays : Nat) : State :=
  let x := s.site site
  let p := (x.pts.getD dom []).getD step 0
  let run := (x.lowRuns.getD dom []).getD step 0
  let clear := fun (y : Site) => { y with lowRuns := modTable y.lowRuns dom step fun _ => 0 }
  if 16 < replays then
    if 320 < (p : Int) + 4 + x.age.getD dom 0 then (s.modSite site clear).escalate site dom step
    else s.modSite site fun y => { clear y with pts := modTable y.pts dom step fun v => v + 4 }
  else if 4 < replays then s.modSite site clear
  else if 7 ≤ run then s.modSite site fun y => { clear y with pts := modTable y.pts dom step fun v => v - 1 }
  else s.modSite site fun y => { y with lowRuns := modTable y.lowRuns dom step fun v => v + 1 }

/-- The least step of a domain, of those that the site's ceiling admits, whose supply would have to rise above 0.85 V. -/
def Site.overTop (x : Site) (dom : Nat) : Option Nat :=
  (List.range (x.ceil.getD dom 0 + 1)).find? fun k => decide (320 < ((x.pts.getD dom []).getD k 0 : Int) + x.age.getD dom 0)

/-- The ageing offset of a domain moves by a drift; where a supply would then have to rise above 0.85 V, Glen escalates. -/
def State.drift (s : State) (site dom : Nat) (by_ : Int) : State :=
  let t := s.modSite site fun x => { x with age := modAt x.age dom fun a => max (-128) (min 127 (a + by_)) }
  match (t.site site).overTop dom with
  | some k => t.escalate site dom k
  | none => t

/-- GLEN_WINDOW (R300): the window of a domain and step ends with the replays that the site's counter holds and those given,
of repairs that Glen counts by itself. An emergency raise ends with it; the ageing offset moves by the drift of the domain's
steps, which the spec does not give (assumption 40). A window of a hand-over is discarded,
and a raise stays in force over it (assumption 101). Without Glen no window ends (R310). -/
def execGlenWindow (site dom step replays : Nat) (s : State) : Outcome State Fault Refusal :=
  .next (if decide (4 ≤ dom) || decide (32 ≤ step) || !s.glenRuns (site / 64) then s
  else
    let total := (((s.site site).replays.getD dom []).getD step 0) + replays
    let s1 := s.modSite site fun x => { x with replays := modTable x.replays dom step fun _ => 0 }
    if s.handingOver (site / 64) 2 then s1
    else
      { ((s1.modSite site fun x => { x with raised := 0 }).learn site dom step total).drift site dom
          (Config.ageDrift s.fresh) with
        fresh := s.fresh + 1 })

/-! ### Steppe generations (R302, R303, Tables 12.3 and 12.4) -/

/-- The code of a point (R302): at or above it, in steps of 2.5 mV. DESIGN CHOICE (assumption 139): of the two codes of 0.85 V, 160
and 0xFF, Glen writes 0xFF. -/
def codeOf (p : Nat) : Nat := if 320 ≤ p then 0xFF else (p + 1) / 2

/-- What a bank of the Steppe tables holds: GEN, HOURS, and of each site its codes by domain and step, its ageing offsets and
whether it is fenced. -/
structure Steppe where
  gen : Nat
  hours : Word32
  vpt : List (List (List Nat))
  age : List (List Int)
  fenced : List Bool
deriving DecidableEq, Repr

/-- The remainder after one byte of CRC-32 (IEEE 802.3), least significant bit first. -/
def crcByte (c : Nat) (b : Byte) : Nat :=
  (List.range 8).foldl (fun c _ => if c % 2 = 1 then c / 2 ^^^ 0xEDB88320 else c / 2) (c ^^^ b.toNat)

/-- CRC-32 of a string of bytes. -/
def crc32 (bs : List Byte) : Nat := bs.foldl crcByte 0xFFFFFFFF ^^^ 0xFFFFFFFF

/-- The record of a site (Table 12.4). -/
def siteRecord (vpt : List (List Nat)) (age : List Int) (fenced : Bool) : List Byte :=
  (tabulate 128 fun i => BitVec.ofNat 8 ((vpt.getD (i / 32) []).getD (i % 32) 0)) ++
    (tabulate 4 fun d => BitVec.ofInt 8 (age.getD d 0)) ++ leBytes 1 fenced.toNat ++ leBytes 123 0

/-- A bank of 1 MiB with a CRC field. What lies behind the site records is zero (DESIGN CHOICE, assumption 82). -/
def Steppe.bytes (b : Steppe) (crc : Nat) : List Byte :=
  leBytes 4 0x4C475453 ++ leBytes 2 1 ++ leBytes 2 0 ++ leBytes 4 b.gen ++ leBytes 4 b.hours.toNat ++ leBytes 44 0 ++
    leBytes 4 crc ++
    ((List.range 256).flatMap fun i => siteRecord (b.vpt.getD i []) (b.age.getD i []) (b.fenced.getD i false)) ++
    List.replicate (2 ^ 20 - 64 - 256 * 256) 0

/-- A bank as Glen writes it, its CRC over the bank with that field zero. -/
def Steppe.bank (b : Steppe) : List Byte := b.bytes (crc32 (b.bytes 0))

/-- The flash offset of bank A, or of bank B. -/
def bankAt (a : Bool) : Nat := if a then 0x1000000 else 0x1100000

/-- A bank is valid (R303): MAGIC, VERSION and CRC. -/
def Persist.validBank (p : Persist) (a : Bool) : Bool :=
  let at_ := bankAt a
  p.flash.num at_ 4 == 0x4C475453 && p.flash.num (at_ + 4) 2 == 1 &&
    p.flash.num (at_ + 60) 4 == crc32 (p.flash.read at_ 60 ++ leBytes 4 0 ++ p.flash.read (at_ + 64) (2 ^ 20 - 64))

/-- What a bank holds. -/
def Persist.steppe (p : Persist) (a : Bool) : Steppe :=
  let at_ := bankAt a
  let rec_ := fun i o => p.flash.byte (at_ + 64 + 256 * i + o)
  ⟨p.flash.num (at_ + 8) 4, BitVec.ofNat 32 (p.flash.num (at_ + 12) 4),
    tabulate 256 fun i => tabulate 4 fun d => tabulate 32 fun k => (rec_ i (32 * d + k)).toNat,
    tabulate 256 fun i => tabulate 4 fun d => (rec_ i (128 + d)).toInt, tabulate 256 fun i => (rec_ i 132) == 1⟩

/-- GEN of a bank, 0 where it is not valid. -/
def Persist.genOf (p : Persist) (a : Bool) : Nat := if p.validBank a then (p.steppe a).gen else 0

/-- The generation that Glen writes next. -/
def State.steppe (s : State) (hours : Word32) : Steppe where
  gen := max (s.persist.genOf true) (s.persist.genOf false) + 1
  hours := hours
  vpt := s.sites.map fun x => x.pts.map fun ys => ys.map codeOf
  age := s.sites.map Site.age
  fenced := s.sites.map Site.fenced

/-- Glen runs and has read the Steppe tables (R303, R310), and is in no hand-over. DESIGN CHOICE (assumption 124): of the four
Glens that of the leader's die writes. -/
def State.writesSteppe (s : State) : Bool :=
  s.powered && decide (3 ≤ (s.die s.leaderDie).stage) && ((s.die s.leaderDie).fw.getD 1 none).any Fw.beating &&
    !s.handingOver s.leaderDie 2

/-- STEPPE_WRITE (R303): the bank not last read or written. HOURS is a free value (assumption 41). -/
def execSteppeWrite (s : State) : Outcome State Fault Refusal :=
  .next (if s.writesSteppe then
    let a := !s.persist.lastA
    { s with
      steppeDue := false
      fresh := s.fresh + 1
      persist := { s.persist with
        flash := s.persist.flash.write (bankAt a) (s.steppe (Config.poweredHours s.fresh)).bank
        lastA := a } }
  else s)

end Sys2Proof.Machine
end

