-- ==== Sys2Proof/Machine/EvFault.lean ====
section
/-! DEFINITION. Events of failures (R343, R362 to R376): fencing, uncorrectable errors, die links, lost dies, fabric ports
and lost channels. An event that nothing enables changes nothing. -/
namespace Sys2Proof.Machine
open Host

/-! ### Fencing a site (R362, R363) -/

/-- The site is to be fenced: by a reason that the module has seen, or by four uncorrectable errors, which fell within one
second where the agenda says so. Glen decides it (R359, R362), from stage MARGIN on (R310). -/
def State.fenceDue (s : State) (i : Nat) : Bool :=
  let x := s.site i
  (x.wantFence || decide (4 ≤ x.errs)) && !x.drain && !x.fenced && (s.die (i / 64)).inService && s.glenRuns (i / 64) &&
    !s.handingOver (i / 64) 2

/-- FENCE_SITE: the site drains, and its tracts are to end (TRACT_END). -/
def execFenceSite (site : Nat) (s : State) : Outcome State Fault Refusal :=
  .next (if s.fenceDue site then
    s.modSite site fun x => { x with drain := true, wantFence := false, clock := x.clock.map (min 7) } else s)

/-- The capacity has changed: EV.FEN, the tests of R275, an arbitration. -/
def State.capacityFell (s : State) : State := ((s.eventAll evFen fun _ => true).retest).wantArbitration

/-- A tract has ended and drained, or TDRAIN has passed for it (R348). -/
def State.hasDrained (s : State) (t : Tract) : Bool := t.state == .complete || (t.state == .ending && s.drained t)

/-- A site that drains and whose tracts have all ended and drained; those of a die out of service are not fenced (R370). -/
def State.emptyDrain (s : State) : Option Nat :=
  (List.range 256).find? fun i =>
    (s.site i).drain && (s.die (i / 64)).inService && s.ctxs.all fun c => c.site != i || (s.tract c.key.tract).any s.hasDrained

/-- FENCE_COMPLETE: the first site that drains and whose tracts have drained. -/
def execFenceComplete (s : State) : Outcome State Fault Refusal :=
  orStay s (match s.emptyDrain with
    | some i =>
      let s1 := (s.modSite i fun x => { x with drain := false, fenced := true }).stick (i / 64) stSite
      some { s1.capacityFell with steppeDue := true }
    | none => none)

/-! ### Uncorrectable errors (R343) -/

/-- Adds a poisoned word. -/
def addPoison (xs : List Nat) (w : Nat) : List Nat := if xs.contains w then xs else xs ++ [w]

/-- Counts an error of a site's storage (R362). -/
def State.siteError (s : State) (k : CtxKey) : State :=
  match s.ctx k with
  | some c => s.modSite c.site fun x => { x with errs := x.errs + 1 }
  | none => s

/-- Poisons a word of a context's storage, which a SAVED context does not have on a site. -/
def State.poisonTile (s : State) (k : CtxKey) (f : Ctx → Ctx) : State :=
  (s.modCtx k fun (c : Ctx) => if c.status = .saved then c else f c).siteError k

/-- UNCORRECTABLE_ERROR. -/
def execUncorrectableError (l : StoreLoc) (s : State) : Outcome State Fault Refusal :=
  .next (match l with
    | .hbm pa =>
      let g := pa / 64
      { s.modChan (paChan pa) fun x => { x with ue := (x.ue + 1) % 2 ^ 16 } with
        hbmPoison := addPoison (addPoison s.hbmPoison (2 * g)) (2 * g + 1) }
    | .lm k off => s.poisonTile k fun (c : Ctx) => { c with poisonLm := addPoison c.poisonLm (off / 8) }
    | .ts k off => s.poisonTile k fun (c : Ctx) => { c with poisonTs := addPoison c.poisonTs (off / 8) }
    | .asPlane k off => s.poisonTile k fun (c : Ctx) => { c with poisonAs := addPoison c.poisonAs (off / 8) }
    | .sem k i => s.poisonTile k fun (c : Ctx) => { c with poisonSem := addPoison c.poisonSem i }
    | .istore k off => s.poisonTile k fun (c : Ctx) => { c with poisonIs := addPoison c.poisonIs (off / 8) })

/-! ### Die links (R366 to R369) -/

/-- The two dies of an edge. -/
def edgeDies (e : Nat) : List Nat := [e % 4, (e + 1) % 4]

/-- Sets ERRSUM.LINK at both ends of an edge. -/
def State.stickLink (s : State) (e : Nat) : State := (edgeDies e).foldl (fun t d => t.stick d stLink) s

/-- A fabric manager at an end of an edge is being replaced: retraining waits (Table 13.8). -/
def State.linkHeld (s : State) (e : Nat) : Bool := (edgeDies e).any fun d => s.handingOver d 5

/-- An edge that is up and is due to retrain does so, unless a hand-over holds it. -/
def State.mayRetrain (s : State) (e : Nat) : State :=
  let x := s.edge e
  if x.st = 0 && x.due && !s.linkHeld e then
    (s.modEdge e fun y => { y with st := 1, rtr := (y.rtr + 1) % 2 ^ 16, attempts := 0, due := false }).stickLink e
  else s

/-- The host's requests that wait are looked at again, and so are events of SAVED contexts (R19, R305, R316). -/
def State.resume (s : State) : State :=
  let t := s.flushEvents
  { t with agenda := t.deferred.map Turn.event ++ t.agenda, deferred := [] }

/-- LINK_WINDOW (R366): replays in each direction over 1 ms. More than 64 make an edge that is up due to retrain; a retrain that a
hand-over holds stays due over later windows (R316). -/
def execLinkWindow (edge rplA rplB : Nat) (s : State) : Outcome State Fault Refusal :=
  .next ((s.modEdge edge fun x =>
    { x with
      rplA := min 65535 rplA, rplB := min 65535 rplB
      due := x.due || (decide (x.st = 0) && (decide (64 < rplA) || decide (64 < rplB))) }).mayRetrain edge)

/-- RETRAIN_ATTEMPT (R366, R367): modules trained in each direction; the third failure takes the edge down. -/
def execRetrainAttempt (edge modsA modsB : Nat) (s : State) : Outcome State Fault Refusal :=
  .next (if (s.edge edge).st = 1 && !s.linkHeld edge then
    let n := (s.edge edge).attempts + 1
    let w := min 8 (min modsA modsB)
    if 4 ≤ w then (s.modEdge edge fun x => { x with st := 0, wid := w, attempts := 0 }).resume
    else if n < 3 then s.modEdge edge fun x => { x with attempts := n }
    else (s.modEdge edge fun x => { x with st := 2, attempts := n, synced := false }).stickLink edge
  else s)

/-- Two dies in service that some path of the ring links. -/
def State.linked (s : State) (a b : Nat) : Bool := (s.die a).inService && (s.die b).inService && (s.path a b).isSome

/-- The die whose group stays in service (R371). -/
def State.anchor (s : State) : Option Nat := [0, 2].find? fun d => (s.die d).inService

/-- A die in service that no path links to that die (R370). -/
def State.severed (s : State) (d : Nat) : Bool :=
  (s.die d).inService &&
    match s.anchor with
    | some a => a != d && !s.linked a d
    | none => false

/-- ROUTE_RESYNC (R368): what the far end had not received is sent again in order, and the new route opens. -/
def execRouteResync (edge : Nat) (s : State) : Outcome State Fault Refusal :=
  .next (if (s.edge edge).st = 2 && !(s.edge edge).synced && s.linked (edge % 4) ((edge + 1) % 4) then
    ((s.resend edge).modEdge edge fun x => { x with synced := true }).resume else s)

/-! ### Die loss (R370 to R374) -/

/-- The requests that went out by a port are given up, each at the die that made it; one of a die out of service is
abandoned (R373, R375). -/
def State.givePort (s : State) (gone : ClpOut → Bool) : State :=
  let xs := s.clpOut.filter fun o => gone o && (s.die o.req.src).inService
  xs.foldl (fun t o => t.respond o.req (o.port / 4) .gone)
    { s with clpOut := s.clpOut.filter fun (o : ClpOut) => !gone o }

/-- The survivors see the two edges of a lost die go down (R358, R370). -/
def State.stickEdges (s : State) (d : Nat) : State :=
  ([d % 4, (d + 3) % 4].filter fun e => (s.edge e).st != 2).foldl (fun t e =>
    ((edgeDies e).filter fun k => (t.die k).inService).foldl (fun u k => u.stick k stLink) t) s

/-- A die leaves service: its edges are down, the survivors record it, what was on its way to or from it is dealt with (R369),
reservations are dropped, and Saddle arbitrates afresh. A replacement on the die ends with it. Tracts on the die end by
TRACT_END (R373). -/
def State.loseDie (s : State) (d : Nat) : State :=
  if (s.die d).inService then
    let down := fun (e : Edge) => { e with st := 2, synced := true, due := false }
    let s1 := s.modDie d fun x => { x with inService := false }
    let s2 := ((s1.stickEdges d).modEdge (d % 4) down).modEdge ((d + 3) % 4) down
    let s3 := (List.range 4).foldl (fun t k => if (t.die k).inService then t.stick k stDie else t) s2
    let ends := s.repl.any fun r => r.die == d
    let s4 := (s3.sweep.givePort fun o => o.port / 4 == d).capacityFell
    ({ s4 with
      reservations := []
      repl := if ends then none else s4.repl } : State).resume
  else s

/-- DIE_LOSS. -/
def execDieLoss (die : Nat) (s : State) : Outcome State Fault Refusal := .next (s.loseDie die)

/-- The far die of an edge that is down: an end that is severed, else the end that is not the anchor's and lies behind. -/
def State.farDie (s : State) (e : Nat) : Nat :=
  match (edgeDies e).find? s.severed with
  | some d => d
  | none => if s.anchor = some ((e + 1) % 4) then e % 4 else (e + 1) % 4

/-- LTO_EXPIRY (R369): the exchange has not completed, and the far die is lost. -/
def execLtoExpiry (edge : Nat) (s : State) : Outcome State Fault Refusal :=
  .next (if (s.edge edge).st = 2 && !(s.edge edge).synced then s.loseDie (s.farDie edge) else s)

/-! ### Fabric ports (R375) -/

/-- Changes a port of a die. -/
def State.modPort (s : State) (d p : Nat) (f : Port → Port) : State := s.modDie d fun x => { x with ports := modAt x.ports p f }

/-- The fabric manager of a die is being replaced: retraining waits (Table 13.8). -/
def State.portHeld (s : State) (d : Nat) : Bool := s.handingOver d 5

/-- PORT_LOSS: a port that is up goes down, which DOWNS and ERRSUM.PORT count, and retrains, behind a replacement of its die's
fabric manager. -/
def execPortLoss (die p : Nat) (s : State) : Outcome State Fault Refusal :=
  .next (if s.portHeld die then { s with deferred := s.deferred ++ [.portLoss die p] }
    else if ((s.die die).ports[p]?).any fun x => x.st == 0 then
      (s.modPort die p fun x => { x with st := 1, downs := (x.downs + 1) % 2 ^ 16 }).stick die stPort
    else s)

/-- The ports of a die train: it has come to stage FABRIC, and its fabric manager has its image (R310, Table 13.4). -/
def State.portsTrain (s : State) (d : Nat) : Bool := decide (4 ≤ (s.die d).stage) && ((s.die d).fw.getD 4 none).isSome

/-- PORT_DOWN: after 10 ms. DESIGN CHOICE (assumption 145): a port that has never come up since power-on does not go down, and DOWNS
and ERRSUM.PORT do not count it. -/
def execPortDown (die p : Nat) (s : State) : Outcome State Fault Refusal :=
  .next (if (((s.die die).ports[p]?).any fun x => x.st == 1) && s.portsTrain die && !s.portHeld die then
    (s.modPort die p fun x => { x with st := 2 }).givePort fun o => o.port == 4 * die + p
  else s)

/-- PORT_UP: the port comes back within 10 ms. -/
def execPortUp (die p : Nat) (s : State) : Outcome State Fault Refusal :=
  .next (if s.portHeld die || !s.portsTrain die then s else s.modPort die p fun x => if x.st = 1 then { x with st := 0 } else x)

/-! ### Channels (R376) -/

/-- CHANNEL_LOST. -/
def execChannelLost (ch : Nat) (s : State) : Outcome State Fault Refusal :=
  .next ((s.modChan ch fun x => { x with lost := true }).stick (ch / 96) stHbm)

end Sys2Proof.Machine
end

