-- ==== Sys2Proof/Machine/EvHost.lean ====
section
/-! DEFINITION. Requests of the host over MHT (R77, R165, R170, R303, R305 to R309, R350, R353, R358, R362, R379): the
system registers, HBM, and the requests that name launches. Every request performed is acknowledged in State.outbox. -/
namespace Sys2Proof.Machine
open Host

/-! ### Transport (R305) -/

/-- The answer to a request: refused or not, a code of Table 18.3 where it has one, and data. -/
structure Reply where
  ok : Bool
  code : Nat
  data : List Byte
deriving DecidableEq, Repr

/-- A plain acknowledgement. -/
def Reply.done : Reply := ⟨true, 0, []⟩
/-- A plain error acknowledgement. -/
def Reply.no : Reply := ⟨false, 0, []⟩

/-- The die of a host port. -/
def hostDie (port : Nat) : Nat := if port = 0 then 0 else 2

/-- The acknowledgement of a request that has been performed already, the latest of its number. -/
def State.acked (s : State) (h : Mht) : Option HostMsg :=
  s.outbox.reverse.find? fun m => match m with
    | .ack x _ _ _ => x.port = h.port && x.stream = h.stream && x.seq = h.seq
    | .notify .. => false

/-- Sends an acknowledgement. -/
def State.reply (s : State) (h : Mht) (r : Reply) : State := { s with outbox := s.outbox ++ [.ack h r.ok r.code r.data] }

/-- Firmware runs on a die: its security core has its image (R310). -/
def State.booted (s : State) (d : Nat) : Bool := ((s.die d).fw.getD 0 none).isSome

/-- The number of the request that a stream performs next; the first is 0 (DESIGN CHOICE, assumption 84). -/
def State.streamNext (s : State) (h : Mht) : Nat :=
  ((s.streams.find? fun x => x.port = h.port && x.stream = h.stream).map Stream.next).getD 0

/-- A request stands so many places ahead of the next one of its stream; half of the numbers lie behind it. -/
def State.streamLead (s : State) (h : Mht) : Nat := (h.seq + 2 ^ 32 - s.streamNext h) % 2 ^ 32

/-- The stream goes on to its next number. -/
def State.streamStep (s : State) (h : Mht) : State :=
  { s with
    streams := ⟨h.port, h.stream, (s.streamNext h + 1) % 2 ^ 32⟩ ::
      s.streams.filter fun (x : Stream) => !(x.port = h.port && x.stream = h.stream) }

/-- Keeps a request until it may be performed. -/
def State.defer (s : State) (i : Instr) : State := { s with deferred := s.deferred ++ [i] }

/-- A controller of some die is in a hand-over (R316). -/
def State.replacing (s : State) (target : Nat) : Bool := (List.range 4).any fun d => s.handingOver d target

/-- The die that a request names is in service. -/
def State.hostReaches (s : State) (h : Mht) : Bool := decide (h.die < 4) && (s.die h.die).inService

/-- The route from the request's port to its die carries no requests now (R21, R366, R368). -/
def State.hostWaits (s : State) (h : Mht) : Bool := s.hostReaches h && !s.pathOpen (hostDie h.port) h.die

/-- Performs a request and acknowledges it: one to a die out of service is refused (R358), and so is one that Table 13.1 does
not admit yet. -/
def State.hostServe (s : State) (h : Mht) (early : Bool) (f : State → State × Reply) : State :=
  if !s.hostReaches h || !(early || s.booted h.die) then s.reply h .no
  else
    let r := f s
    r.1.reply h r.2

/-- A request of the host (R305): one whose turn it is in its stream is performed, and then those that waited are looked at
again; one that comes before its turn, or whose way is not open, or that hold names, waits, unless it is to a die out of service,
which refuses it (R358); one that has been performed has its acknowledgement repeated. -/
def State.mht (s : State) (i : Instr) (h : Mht) (early hold : Bool) (f : State → State × Reply) : State :=
  if !s.powered || !(s.die (hostDie h.port)).inService then s
  else if s.streamLead h = 0 then
    if (hold && s.hostReaches h) || s.hostWaits h then s.defer i else ((s.hostServe h early f).streamStep h).resume
  else if s.streamLead h < 2 ^ 31 then s.defer i
  else
    match s.acked h with
    | some m => { s with outbox := s.outbox ++ [m] }
    | none => s

/-! ### Reading registers -/

/-- BOOTSTAT, ORIENT (Table 1.3, R310). -/
def orientOf (d : Nat) : Nat := d + 4 * d + (if d % 2 = 0 then 16 else 0) + 32

/-- The logical row and column of raw mesh coordinates under a rotation (Table 1.2). -/
def normalise (rot x y : Nat) : Nat × Nat :=
  match rot with
  | 0 => (y, x)
  | 1 => (x, 7 - y)
  | 2 => (7 - y, 7 - x)
  | _ => (7 - x, y)

/-- The site number of raw coordinates on a die, under the rotation that its ORIENT gives (R15). -/
def siteNumber (d x y : Nat) : Nat :=
  let p := normalise (orientOf d % 4) x y
  d * 64 + p.1 * 8 + p.2

/-- ERRSUM (Table 17.1). -/
def State.errsum (s : State) (d : Nat) : Nat :=
  (s.die d).sticky.toNat + s.capacity * 2 ^ 16 +
    ((List.range 4).map fun k => if (s.die k).inService then 2 ^ (28 + k) else 0).sum

/-- LINKSTAT of an edge; RPL is the greater of its two directions. -/
def linkstat (e : Edge) : Nat := e.st + e.wid * 2 ^ 4 + max e.rplA e.rplB * 2 ^ 16 + e.rtr * 2 ^ 32

/-- SITESTAT. -/
def sitestat (x : Site) : Nat :=
  x.ceil.getD 0 0 + x.ceil.getD 1 0 * 2 ^ 8 + x.ceil.getD 2 0 * 2 ^ 16 + x.ceil.getD 3 0 * 2 ^ 24 +
    x.fenced.toNat * 2 ^ 32 + x.drain.toNat * 2 ^ 33 + x.esc * 2 ^ 40

/-- FWSTAT (Table 18.2). -/
def State.fwstat (s : State) (d : Nat) : Nat :=
  let x := s.die d
  let step := match s.repl with
    | some r => if r.die = d then r.step else 0
    | none => 0
  x.repl % 256 + x.rollbk % 256 * 2 ^ 8 + step * 2 ^ 18 + x.fwTarget * 2 ^ 21 + x.err * 2 ^ 24 + x.refused * 2 ^ 32

/-- PWRSTAT (Table 18.1). -/
def State.pwrstat (s : State) (d : Nat) : Nat :=
  let x := s.saddle
  wrap x.inlet 16 + (s.die d).trips * 2 ^ 16 + (s.die d).ocl.toNat * 2 ^ 32 + x.uflr.toNat * 2 ^ 33 +
    (if x.beyond then 2 else if x.fallback then 1 else 0) * 2 ^ 34 + x.cap * 2 ^ 36

/-- INVSTAT (Table 3.15). -/
def State.invstat (s : State) : Nat := s.invBusy.toNat + s.invRefused.toNat * 2 + s.invSeq.toNat * 2 ^ 16

/-- The registers of a die's block by offset: the value, or none where no register is assigned. TKILL has no value that
the spec gives (assumption 42). DESIGN CHOICE (assumption 85): INVCTL reads as the last write that was accepted. -/
def State.regRead (s : State) (d off : Nat) : Option Word :=
  let w := fun (n : Nat) => some (BitVec.ofNat 64 n)
  if off % 8 != 0 then none
  else if off = 0x08 then w (s.die d).stage
  else if off = 0x10 then w (orientOf d)
  else if off = 0x100 then some s.astbase
  else if off = 0x108 then some s.invva
  else if off = 0x110 then some s.invctl
  else if off = 0x118 then w s.invstat
  else if off = 0x120 then some (s.die d).qtbase
  else if off = 0x128 then some (s.die d).savebase
  else if off = 0x130 then some ((Config.freeBits s.fresh).setWidth 64)
  else if off = 0x138 then w (s.errsum d)
  else if off = 0x140 then w (linkstat (s.edge d))
  else if off = 0x148 then w (linkstat (s.edge ((d + 3) % 4)))
  else if off = 0x150 then w (s.fwstat d)
  else if off = 0x160 then w (s.pwrstat d)
  else if 0x180 ≤ off ∧ off < 0x1A0 then
    let p := (s.die d).ports.getD ((off - 0x180) / 8) ⟨0, 0⟩
    w (p.st + p.downs * 2 ^ 32)
  else if off = 0x200 then some s.devcfg
  else if 0x300 ≤ off ∧ off < 0x500 then w (sitestat (s.site (64 * d + (off - 0x300) / 8)))
  else if 0x600 ≤ off ∧ off < 0x900 then
    let x := s.chan (96 * d + (off - 0x600) / 8)
    w (x.lost.toNat + x.ue * 2 ^ 16 + x.ce * 2 ^ 32)
  else if 0x10000 ≤ off ∧ off < 0x11000 then some (s.routes.getD ((off - 0x10000) / 8) 0)
  else none

/-- An access to the route table waits while the way from the die that it names to the leader's carries no requests: it is
forwarded there (R19, R309). -/
def State.routeWaits (s : State) (h : Mht) : Bool := !s.pathOpen h.die s.leaderDie

/-- An offset of the route table. -/
def isRoute (off : Nat) : Bool := decide (0x10000 ≤ off) && decide (off < 0x11000)

/-- MHT_REGRD (R305, R306). -/
def execMhtRegrd (h : Mht) (off : Nat) (s : State) : Outcome State Fault Refusal :=
  .next (s.mht (.mhtRegrd h off) h true (isRoute off && s.routeWaits h) fun s =>
    match s.regRead h.die off with
    | some v => ({ s with fresh := s.fresh + 1 }, ⟨true, 0, leBytes 8 v.toNat⟩)
    | none => (s, .no))

/-! ### Writing registers (R4, R306) -/

/-- Keeps n bits from lo on. -/
def keep (v : Word) (lo n : Nat) : Word := v &&& BitVec.ofNat 64 ((2 ^ n - 1) * 2 ^ lo)

/-- SAVEBASE may be written: no image of the die is live or being written (R353). -/
def State.saveFree (s : State) (d : Nat) : Bool :=
  (s.images.all fun x => x.die != d || x.written) &&
    (bitsOf (s.die d).savebase.toNat 0 8 == 0 || (List.range 2048).all fun i => !s.dirUsed d i)

/-- SAVEBASE (Table 16.8). -/
def State.writeSavebase (s : State) (d : Nat) (v : Word) : State × Reply :=
  if s.saveFree d then
    ({ s.modDie d fun x => { x with savebase := keep v 30 10 ||| keep v 0 8 } with
      images := s.images.filter fun (x : SaveImg) => x.die != d }, .done)
  else (s, .no)

/-- DEVCFG is written once (R308). -/
def State.writeDevcfg (s : State) (v : Word) : State × Reply :=
  if s.devSet then (s, .no) else ({ s with devcfg := keep v 0 9 ||| 0x200 }, .done)

/-- A route table entry (R309, Table 13.3). DESIGN CHOICE (assumption 141): a write, as a read, before stage FABRIC has loaded a
fabric manager is performed at once. -/
def State.writeRoute (s : State) (i : Nat) (v : Word) : State × Reply :=
  if i < 512 then
    ({ s with routes := s.routes.set i (keep v 63 1 ||| keep v 24 24 ||| keep v 6 2 ||| keep v 0 4) }, .done)
  else (s, .no)

/-- TKILL (R350, Table 16.6). -/
def State.writeTkill (s : State) (d : Nat) (v : Word) : State × Reply :=
  let q := bitsOf v.toNat 0 17
  let seq := v.toNat / 2 ^ 17
  (if q / 32768 = d then
    match s.launches.find? fun l => l.q = q && l.seq % 2 ^ 47 = seq && !l.isOver && l.unwritten.isNone with
    | some l =>
      match l.phase with
      | .placed t => s.endWith t 4
      | _ => s.refuse l 4
    | none => s
  else s, .done)

/-- The sticky bits of ERRSUM (R358). -/
def State.writeErrsum (s : State) (d : Nat) (v : Word) : State × Reply :=
  (s.modDie d fun x => { x with sticky := x.sticky &&& ~~~(v.setWidth 5) }, .done)

/-- SITESTAT.FREQ (R358, R362). -/
def State.writeSitestat (s : State) (d i : Nat) (v : Word) : State × Reply :=
  if 64 ≤ i then (s, .no)
  else (if v.getLsbD 34 then s.modSite (64 * d + i) fun x => { x with wantFence := x.wantFence || !x.fenced } else s, .done)

/-- INVCTL (R77): a refused write sets REFUSED. -/
def State.writeInv (s : State) (v : Word) : State × Reply := (s.writeInvctl v, if s.invRefuses v then .no else .done)

/-- A write to a register of a die's block; those that R306 lists, and offsets with no register, refuse it. -/
def State.regWrite (s : State) (d off : Nat) (v : Word) : State × Reply :=
  if off % 8 != 0 then (s, .no)
  else if off = 0x100 then ({ s with astbase := keep v 19 21 }, .done)
  else if off = 0x108 then ({ s with invva := keep v 16 40 }, .done)
  else if off = 0x110 then s.writeInv v
  else if off = 0x120 then (s.modDie d fun x => { x with qtbase := keep v 21 19, qtSet := true }, .done)
  else if off = 0x128 then s.writeSavebase d v
  else if off = 0x130 then s.writeTkill d v
  else if off = 0x138 then s.writeErrsum d v
  else if off = 0x200 then s.writeDevcfg v
  else if 0x300 ≤ off ∧ off < 0x500 then s.writeSitestat d ((off - 0x300) / 8) v
  else if 0x10000 ≤ off ∧ off < 0x11000 then s.writeRoute ((off - 0x10000) / 8) v
  else (s, .no)

/-- Route table writes wait while a fabric manager, which keeps a copy of the table, is replaced (R309, Table 13.8). -/
def State.routesHeld (s : State) : Bool := s.replacing 5

/-- A TKILL waits while the distributor of the queue that it names is replaced (R316, R389). -/
def State.tkillHeld (s : State) (v : Word) : Bool := s.queueHeld (bitsOf v.toNat 0 17)

/-- MHT_REGWR (R306). -/
def execMhtRegwr (h : Mht) (off : Nat) (v : Word) (s : State) : Outcome State Fault Refusal :=
  .next (s.mht (.mhtRegwr h off v) h false
    ((isRoute off && (s.routesHeld || s.routeWaits h)) || (off == 0x130 && s.tkillHeld v)) fun s => s.regWrite h.die off v)

/-- INV_ALL (R77). -/
def execInvAll (h : Mht) (v : Word) (s : State) : Outcome State Fault Refusal :=
  .next (if invKind v = 0 then s.mht (.invAll h v) h false false fun s => s.writeInv v else s)

/-- INV_ASID (R77). -/
def execInvAsid (h : Mht) (v : Word) (s : State) : Outcome State Fault Refusal :=
  .next (if invKind v = 1 then s.mht (.invAsid h v) h false false fun s => s.writeInv v else s)

/-- INV_RANGE (R77). -/
def execInvRange (h : Mht) (v : Word) (s : State) : Outcome State Fault Refusal :=
  .next (if invKind v = 2 then s.mht (.invRange h v) h false false fun s => s.writeInv v else s)

/-- INV_GLOBAL (R77). -/
def execInvGlobal (h : Mht) (v : Word) (s : State) : Outcome State Fault Refusal :=
  .next (if invKind v = 3 then s.mht (.invGlobal h v) h false false fun s => s.writeInv v else s)

/-- DEVCFG_WRITE (R308). -/
def execDevcfgWrite (h : Mht) (v : Word) (s : State) : Outcome State Fault Refusal :=
  .next (s.mht (.devcfgWrite h v) h false false fun s => s.writeDevcfg v)

/-- ROUTE_ENTRY_WRITE (R309). -/
def execRouteEntryWrite (h : Mht) (i : Nat) (v : Word) (s : State) : Outcome State Fault Refusal :=
  .next (s.mht (.routeEntryWrite h i v) h false (s.routesHeld || s.routeWaits h) fun s => s.writeRoute i v)

/-- SAVEBASE_WRITE (R353). -/
def execSavebaseWrite (h : Mht) (v : Word) (s : State) : Outcome State Fault Refusal :=
  .next (s.mht (.savebaseWrite h v) h false false fun s => s.writeSavebase h.die v)

/-- TKILL (R350). -/
def execTkill (h : Mht) (v : Word) (s : State) : Outcome State Fault Refusal :=
  .next (s.mht (.tkill h v) h false (s.tkillHeld v) fun s => s.writeTkill h.die v)

/-- ERRSUM_CLEAR (R358). -/
def execErrsumClear (h : Mht) (v : Word) (s : State) : Outcome State Fault Refusal :=
  .next (s.mht (.errsumClear h v) h false false fun s => s.writeErrsum h.die v)

/-- FENCE_REQUEST (R362): SITESTAT of logical site row × 8 + column of the die. -/
def execFenceRequest (h : Mht) (site : Nat) (v : Word) (s : State) : Outcome State Fault Refusal :=
  .next (s.mht (.fenceRequest h site v) h false false fun s => s.writeSitestat h.die site v)

/-! ### HBM (R306, R307) -/

/-- The range of a request lies in HBM and has 1 to 8192 bytes. -/
def hostRange (pa n : Nat) : Bool := decide (1 ≤ n) && decide (n ≤ 8192) && decide (pa + n ≤ hbmSize)

/-- The first granule of a range that is poisoned or beyond reach, as its address. -/
def State.badGranule (s : State) (pa n : Nat) : Option Nat :=
  ((List.range ((pa % 64 + n + 63) / 64)).map fun i => pa / 64 * 64 + 64 * i).find? fun g =>
    !s.reaches g || s.hbmPoison.any fun w => meets (32 * w) 32 g 64

/-- A request waits while the way from its die to the HBM that it names carries no requests (R366, R368). -/
def State.memHeld (s : State) (h : Mht) (pa n : Nat) : Bool := hostRange pa n && !s.opens h.die pa n

/-- MHT_MEMRD. -/
def execMhtMemrd (h : Mht) (pa len : Nat) (s : State) : Outcome State Fault Refusal :=
  .next (s.mht (.mhtMemrd h pa len) h false (s.memHeld h pa len) fun s =>
    if hostRange pa len then
      match s.badGranule pa len with
      | some g => (s, ⟨false, 0, leBytes 8 g⟩)
      | none => (s, ⟨true, 0, s.hbm.read pa len⟩)
    else (s, .no))

/-- A write would cover part of a poisoned ECC word only, or touch storage beyond reach. -/
def State.writeRefused (s : State) (pa n : Nat) : Bool :=
  !s.reachesAll pa n || s.hbmPoison.any fun w =>
    meets (32 * w) 32 pa n && !(decide (pa ≤ 32 * w) && decide (32 * w + 32 ≤ pa + n))

/-- MHT_MEMWR. -/
def execMhtMemwr (h : Mht) (pa : Nat) (bytes : List Byte) (s : State) : Outcome State Fault Refusal :=
  .next (s.mht (.mhtMemwr h pa bytes) h false (s.memHeld h pa bytes.length) fun s =>
    if hostRange pa bytes.length && !s.writeRefused pa bytes.length then (s.hbmWrite pa (clean bytes), .done)
    else (s, .no))

/-! ### Launches (R165, R170) -/

/-- An EVPOST waits while the way to the save image of a context of the launch carries no requests (R19, R48). -/
def State.evpostHeld (s : State) (queue seq : Nat) : Bool :=
  (s.launch queue seq).any fun l =>
    s.ctxs.any fun c => l.phase == .placed c.key.tract && !(s.server queue).all fun d => s.savedOpens d c

/-- EVPOST: EV.HOST in every context of a launch that is placed or SAVED. -/
def execEvpost (h : Mht) (queue seq : Nat) (s : State) : Outcome State Fault Refusal :=
  .next (s.mht (.evpost h queue seq) h false (s.evpostHeld queue seq) fun s =>
    match s.launch queue seq with
    | some l =>
      match l.phase with
      | .placed t =>
        if (s.tract t).any fun x => x.state != .ending then (s.eventAll evHost fun c => c.key.tract == t, .done) else (s, .no)
      | _ => (s, .no)
    | none => (s, .no))

/-- The reply to a NOTIFY waits while the distributor that has the request is replaced, or its way to the save image of a SAVED
context carries no requests (R19, R316). -/
def State.nreplyHeld (s : State) (k : CtxKey) : Bool :=
  (s.ctx k).any fun c => (s.sysDie c).any (fun d => s.handingOver d 4) || !s.sysOpens c

/-- NREPLY: the reply to a pending NOTIFY. -/
def execNreply (h : Mht) (k : CtxKey) (v : Word) (s : State) : Outcome State Fault Refusal :=
  .next (s.mht (.nreply h k v) h false (s.nreplyHeld k) fun s =>
      if (s.ctx k).any fun c => c.sys.any fun r => r.asked then (s.sysLand k v, .done) else (s, .no))

/-- STEPPE (R303). -/
def execSteppe (h : Mht) (s : State) : Outcome State Fault Refusal :=
  .next (s.mht (.steppe h) h false false fun s => ({ s with steppeDue := true }, .done))

end Sys2Proof.Machine
end

