-- ==== Sys2Proof/Machine/Crypto.lean ====
section
/-! DEFINITION. Cryptography of the security core (R311, R312): SHA-256 (FIPS 180-4) and the verification of ECDSA
signatures on curve P-256 (FIPS 186-4). -/
namespace Sys2Proof.Machine

/-! ### SHA-256 -/

/-- The round constants. -/
def shaK : List Word32 :=
  [0x428a2f98, 0x71374491, 0xb5c0fbcf, 0xe9b5dba5, 0x3956c25b, 0x59f111f1, 0x923f82a4, 0xab1c5ed5] ++
  [0xd807aa98, 0x12835b01, 0x243185be, 0x550c7dc3, 0x72be5d74, 0x80deb1fe, 0x9bdc06a7, 0xc19bf174] ++
  [0xe49b69c1, 0xefbe4786, 0x0fc19dc6, 0x240ca1cc, 0x2de92c6f, 0x4a7484aa, 0x5cb0a9dc, 0x76f988da] ++
  [0x983e5152, 0xa831c66d, 0xb00327c8, 0xbf597fc7, 0xc6e00bf3, 0xd5a79147, 0x06ca6351, 0x14292967] ++
  [0x27b70a85, 0x2e1b2138, 0x4d2c6dfc, 0x53380d13, 0x650a7354, 0x766a0abb, 0x81c2c92e, 0x92722c85] ++
  [0xa2bfe8a1, 0xa81a664b, 0xc24b8b70, 0xc76c51a3, 0xd192e819, 0xd6990624, 0xf40e3585, 0x106aa070] ++
  [0x19a4c116, 0x1e376c08, 0x2748774c, 0x34b0bcb5, 0x391c0cb3, 0x4ed8aa4a, 0x5b9cca4f, 0x682e6ff3] ++
  [0x748f82ee, 0x78a5636f, 0x84c87814, 0x8cc70208, 0x90befffa, 0xa4506ceb, 0xbef9a3f7, 0xc67178f2]

/-- The initial hash value. -/
def shaInit : List Word32 := [0x6a09e667, 0xbb67ae85, 0x3c6ef372, 0xa54ff53a, 0x510e527f, 0x9b05688c, 0x1f83d9ab, 0x5be0cd19]

/-- Rotates right. -/
def rotr (x : Word32) (n : Nat) : Word32 := x.rotateRight n

/-- Extends the message schedule, newest word first, by n words. -/
def shaSchedule (w : List Word32) : Nat → List Word32
  | 0 => w
  | n + 1 =>
    let a := w.getD 14 0
    let b := w.getD 1 0
    let s0 := rotr a 7 ^^^ rotr a 18 ^^^ (a >>> 3)
    let s1 := rotr b 17 ^^^ rotr b 19 ^^^ (b >>> 10)
    shaSchedule ((w.getD 15 0 + s0 + w.getD 6 0 + s1) :: w) n

/-- One round on the working variables a to h. -/
def shaRound (v : List Word32) (kw : Word32 × Word32) : List Word32 :=
  let x := fun i => v.getD i 0
  let s1 := rotr (x 4) 6 ^^^ rotr (x 4) 11 ^^^ rotr (x 4) 25
  let ch := (x 4 &&& x 5) ^^^ (~~~(x 4) &&& x 6)
  let t1 := x 7 + s1 + ch + kw.1 + kw.2
  let s0 := rotr (x 0) 2 ^^^ rotr (x 0) 13 ^^^ rotr (x 0) 22
  let maj := (x 0 &&& x 1) ^^^ (x 0 &&& x 2) ^^^ (x 1 &&& x 2)
  [t1 + s0 + maj, x 0, x 1, x 2, x 3 + t1, x 4, x 5, x 6]

/-- A big-endian number. -/
def beNat (bs : List Byte) : Nat := bs.foldl (fun a b => a * 256 + b.toNat) 0

/-- n big-endian bytes. -/
def beBytes (n v : Nat) : List Byte := (leBytes n v).reverse

/-- Hashes one block of 64 bytes. -/
def shaBlock (h : List Word32) (blk : List Byte) : List Word32 :=
  let w := (List.range 16).foldl (fun (acc : List Word32) i => BitVec.ofNat 32 (beNat ((blk.drop (4 * i)).take 4)) :: acc) []
  let ws := (shaSchedule w 48).reverse
  List.zipWith (· + ·) h ((List.zip shaK ws).foldl shaRound h)

/-- Hashes n blocks. -/
def shaBlocks (h : List Word32) (bs : List Byte) : Nat → List Word32
  | 0 => h
  | n + 1 => shaBlocks (shaBlock h (bs.take 64)) (bs.drop 64) n

/-- SHA-256 of a byte string; the first byte of the digest is the most significant. -/
def sha256 (bs : List Byte) : BitVec 256 :=
  let n := bs.length
  let padded := bs ++ [0x80] ++ List.replicate ((119 - n % 64) % 64) 0 ++ beBytes 8 (8 * n)
  BitVec.ofNat 256 ((shaBlocks shaInit padded (padded.length / 64)).foldl (fun a w => a * 2 ^ 32 + w.toNat) 0)

/-! ### P-256 -/

/-- The field prime. -/
def p256 : Nat := 0xFFFFFFFF00000001000000000000000000000000FFFFFFFFFFFFFFFFFFFFFFFF
/-- The coefficient b; a is -3. -/
def p256b : Nat := 0x5AC635D8AA3A93E7B3EBBD55769886BC651D06B0CC53B0F63BCE3C3E27D2604B
/-- The group order. -/
def p256n : Nat := 0xFFFFFFFF00000000FFFFFFFFFFFFFFFFBCE6FAADA7179E84F3B9CAC2FC632551
/-- The base point. -/
def p256g : Nat × Nat :=
  (0x6B17D1F2E12C4247F8BCE6E563A440F277037D812DEB33A0F4A13945D898C296,
    0x4FE342E2FE1A7F9B8EE7EB4A7C0F9E162BCE33576B315ECECBB6406837BF51F5)

/-- A power modulo m, over so many bits of the exponent. -/
def powMod (m : Nat) : Nat → Nat → Nat → Nat
  | 0, _, _ => 1 % m
  | f + 1, b, e =>
    let h := powMod m f (b * b % m) (e / 2)
    if e % 2 = 1 then b * h % m else h

/-- The inverse modulo a prime. -/
def invMod (m a : Nat) : Nat := powMod m 256 (a % m) (m - 2)

/-- a - b modulo the field prime. -/
def subP (a b : Nat) : Nat := (a + p256 - b % p256) % p256

/-- The point with slope k through (x1, y1) and another point of abscissa x2. -/
def chord (k x1 y1 x2 : Nat) : Nat × Nat :=
  let x := subP (subP (k * k) x1) x2
  (x, subP (k * subP x1 x) y1)

/-- Adds points of the curve; none is the neutral element. -/
def ecAdd : Option (Nat × Nat) → Option (Nat × Nat) → Option (Nat × Nat)
  | none, q => q
  | p, none => p
  | some (x1, y1), some (x2, y2) =>
    if x1 = x2 then
      if (y1 + y2) % p256 = 0 then none
      else some (chord (subP (3 * x1 * x1) 3 * invMod p256 (2 * y1) % p256) x1 y1 x2)
    else some (chord (subP y2 y1 * invMod p256 (subP x2 x1) % p256) x1 y1 x2)

/-- A multiple of a point, over so many bits of the scalar. -/
def ecMul : Nat → Nat → Option (Nat × Nat) → Option (Nat × Nat)
  | 0, _, _ => none
  | f + 1, k, p =>
    let r := ecMul f (k / 2) (ecAdd p p)
    if k % 2 = 1 then ecAdd p r else r

/-- A public key of 64 bytes: a point of the curve. -/
def pubKey (bs : List Byte) : Option (Nat × Nat) :=
  let x := beNat (bs.take 32)
  let y := beNat (bs.drop 32)
  if x < p256 ∧ y < p256 ∧ y * y % p256 = (subP (x * x * x) (3 * x) + p256b) % p256 then some (x, y) else none

/-- The signature of 64 bytes verifies for a digest under a public key. -/
def ecdsaOk (key : List Byte) (digest : BitVec 256) (sig : List Byte) : Bool :=
  let r := beNat (sig.take 32)
  let t := beNat (sig.drop 32)
  match pubKey key with
  | some q =>
    if 0 < r ∧ r < p256n ∧ 0 < t ∧ t < p256n then
      let w := invMod p256n t
      let u1 := digest.toNat * w % p256n
      let u2 := r * w % p256n
      match ecAdd (ecMul 256 u1 (some p256g)) (ecMul 256 u2 (some q)) with
      | some (x, _) => x % p256n == r
      | none => false
    else false
  | none => false

end Sys2Proof.Machine
end

