-- ==== Sys2Proof/Machine/EvFirmware.lean ====
section
/-! DEFINITION. Events of power, boot and firmware (R27, R302, R303, R310 to R316, R370, R386 to R390). An event that
nothing enables changes nothing. -/
namespace Sys2Proof.Machine
open Host

/-! ### Images (R311, Table 13.5, Table 18.3) -/

/-- Error codes of Table 18.3. -/
def fwFormat : Nat := 1
def fwKey : Nat := 2
def fwSig : Nat := 3
def fwSvn : Nat := 4
def fwOrder : Nat := 5
def fwHeartbeat : Nat := 6
def fwRollback : Nat := 7
def fwLocked : Nat := 8

/-- TARGET and BODYSZ of an image. -/
def imgTarget (img : List Byte) : Nat := recField img 4 1
def imgBody (img : List Byte) : Nat := recField img 12 4

/-- The layout of Table 13.5. -/
def imgFormatOk (img : List Byte) : Bool :=
  recField img 0 4 == 0x46574C43 && decide (1 ≤ imgTarget img) && decide (imgTarget img ≤ 5) && recField img 5 1 == 1 &&
    recField img 6 2 == 0 && recField img 16 48 == 0 && decide (64 ≤ imgBody img) && decide (imgBody img ≤ 2 ^ 22) &&
    imgBody img % 64 == 0 && img.length == 192 + imgBody img

/-- The digest that the signature covers. -/
def imgDigest (img : List Byte) : BitVec 256 := sha256 (img.take 64 ++ img.drop 192)

/-- The checks of R311 in the order of Table 18.3: the code of the first that fails, or the image. -/
def State.verify (s : State) (img : List Byte) : Except Nat Fw :=
  if !imgFormatOk img then .error fwFormat
  else if sha256 ((img.drop 64).take 64) != s.persist.keyHash then .error fwKey
  else if !ecdsaOk ((img.drop 64).take 64) (imgDigest img) ((img.drop 128).take 64) then .error fwSig
  else if recField img 8 4 < s.persist.minSvn.getD (imgTarget img - 1) 0 then .error fwSvn
  else .ok ⟨recField img 8 4, imgDigest img, false⟩

/-- A refusal (R386): ERR, REFUSED, and LOCKED after sixteen. -/
def State.fwRefuse (s : State) (d code : Nat) : State × Reply :=
  (s.modDie d fun x =>
    { x with err := code, refused := min 255 (x.refused + 1), locked := x.locked || decide (16 ≤ x.refused + 1) },
    ⟨false, code, []⟩)

/-- Extends a measurement register (R312). -/
def State.measure (s : State) (d target : Nat) (digest : BitVec 256) : State :=
  s.modDie d fun x =>
    { x with meas := modAt x.meas (target - 1) fun m => sha256 (beBytes 32 m.toNat ++ beBytes 32 digest.toNat) }

/-! ### Boot (R310, R387) -/

/-- The stage whose images a target's are (Table 13.4). -/
def stageOf (target : Nat) : Nat :=
  match target with
  | 4 => 5
  | 5 => 4
  | n => n

/-- The target whose image a stage loads. -/
def targetOf (stage : Nat) : Nat := stageOf stage

/-- BOOTLOAD (R310, R311). DESIGN CHOICE (assumption 114): R310 refuses only an image of a later stage than the current one; an
image of the current or an earlier stage, also after READY, takes the place of the one there at once, and of an earlier stage
counts as one that has posted its heartbeat. -/
def State.bootload (s : State) (d : Nat) (img : List Byte) : State × Reply :=
  if (s.die d).locked then (s, ⟨false, fwLocked, []⟩)
  else
    match s.verify img with
    | .error code => s.fwRefuse d code
    | .ok fw =>
      let t := imgTarget img
      if (s.die d).stage < stageOf t then s.fwRefuse d fwOrder
      else
        let up := decide (stageOf t < (s.die d).stage)
        ((s.measure d t fw.digest).modDie d fun x => { x with fw := x.fw.set (t - 1) (some { fw with beating := up }) }, .done)

/-- BOOTLOAD: it waits while a security core is replaced (Table 13.8). The row stands for the delivery of a whole image
(assumption 86). -/
def execBootload (h : Mht) (image : List Byte) (s : State) : Outcome State Fault Refusal :=
  .next (s.mht (.bootload h image) h true (s.replacing 1) fun s => s.bootload h.die image)

/-- A voltage code as a point (R302): a reserved code reads as 0.85 V. -/
def pointOf (code : Nat) : Nat := if 160 ≤ code then 320 else 2 * code

/-- Sites as Glen finds them in a generation: a fenced site stays fenced. -/
def State.loadSteppe (s : State) (b : Steppe) : State :=
  { s with
    sites := s.sites.zipIdx.map fun p =>
      { p.1 with
        pts := (b.vpt.getD p.2 []).map fun ys => ys.map pointOf
        age := b.age.getD p.2 []
        fenced := p.1.fenced || b.fenced.getD p.2 false } }

/-- Reads a bank. -/
def State.readBank (s : State) (a : Bool) : State :=
  { s.loadSteppe (s.persist.steppe a) with persist := { s.persist with lastA := a } }

/-- Reads the valid bank of the greater generation (R303). -/
def State.readSteppe (s : State) : State :=
  let p := s.persist
  if p.validBank true && (!p.validBank false || decide ((p.steppe false).gen < (p.steppe true).gen)) then s.readBank true
  else if p.validBank false then s.readBank false
  else s

/-- The share of EXPCAP that a distributor image sets as it starts, 1 to 64 (R45; assumption 74). -/
def Die.adopt (x : Die) : Die :=
  match x.fw.getD 3 none with
  | some f => { x with expcap := max 1 (min 64 (Config.expcapOf f.digest)) }
  | none => x

/-- What happens as a stage ends: the die links have trained, Glen has read the Steppe tables, Saddle the board identity and,
where no coolant report has been read, takes the nominal cap (R296), the fabric ports have trained, the distributors have
started. -/
def State.leaveStage (s : State) (n : Nat) : State :=
  match n with
  | 0 => { s with edges := s.edges.map fun (e : Edge) => if e.st = 1 then { e with st := 0 } else e }
  | 2 => s.readSteppe
  | 3 =>
    if s.saddle.fallback || s.saddle.beyond || s.saddle.lastInlet.isSome then s
    else { s with saddle := { s.saddle with cap := (limitsOf s.saddle.cooling).nominal.toNat } }
  | 4 =>
    { s with dies := s.dies.map fun (x : Die) =>
        { x with ports := x.ports.map fun (p : Port) => if p.st = 1 then { p with st := 0 } else p } }
  | 5 => { s with dies := s.dies.map Die.adopt }
  | _ => s

/-- Dies in service. -/
def State.diesIn (s : State) : List Nat := (List.range 4).filter fun d => (s.die d).inService

/-- The image of a stage is loaded on every die in service. -/
def State.stageLoaded (s : State) (n : Nat) : Bool :=
  s.diesIn.all fun d => (s.die d).stage == n && ((s.die d).fw.getD (targetOf n - 1) none).isSome

/-- The heartbeats of a stage's images. -/
def Die.beat (x : Die) (n : Nat) : Die :=
  { x with fw := modAt x.fw (targetOf n - 1) fun f => f.map fun w => { w with beating := true } }

/-- BOOT_STAGE_ADVANCE (R310): the images of the stage have posted their heartbeats on every die in service. At READY the
distributors start. -/
def execBootStageAdvance (s : State) : Outcome State Fault Refusal :=
  .next (
    let n := (s.die s.leaderDie).stage
    if !s.powered || s.diesIn.isEmpty then s
    else if n = 0 then
      { s.leaveStage 0 with dies := s.dies.map fun (x : Die) => { x with stage := max 1 x.stage } }
    else if s.stageLoaded n then
      let s1 := { s with dies := s.dies.map fun (x : Die) => { x.beat n with stage := min 5 (n + 1) } }
      s1.leaveStage n
    else s)

/-- BOOT_HEARTBEAT_TIMEOUT (R387): the image of the stage is to be loaded again. -/
def execBootHeartbeatTimeout (die : Nat) (s : State) : Outcome State Fault Refusal :=
  .next (
    let t := targetOf (s.die die).stage
    if ((s.die die).fw.getD (t - 1) none).any fun f => !f.beating then
      s.modDie die fun x => { x with err := fwHeartbeat, fw := x.fw.set (t - 1) none }
    else s)

/-! ### Power (R27) -/

/-- A module whose power has come or gone: the flash and the fuses stay. DESIGN CHOICE (assumption 127): until the first coolant
report the nominal cap of the cooling method is in force. -/
def State.restart (s : State) (powered : Bool) (cooling : Cooling) : State :=
  { State.reset with
    powered := powered
    persist := s.persist
    fresh := s.fresh
    agenda := s.agenda
    saddle := { Saddle.reset with cooling := cooling, cap := (limitsOf cooling).nominal.toNat } }

/-- POWER_ON: the board names the cooling method (R296). -/
def execPowerOn (cooling : Cooling) (s : State) : Outcome State Fault Refusal :=
  .next (if s.powered then s else s.restart true cooling)

/-- POWER_LOSS. -/
def execPowerLoss (s : State) : Outcome State Fault Refusal := .next (s.restart false .coldPlate)

/-! ### Live replacement (R314 to R316, R388, R389) -/

/-- A staging region: 64 MiB of HBM, aligned. -/
def stagingOk (pa : Nat) : Bool := pa % 2 ^ 26 == 0 && decide (pa + 2 ^ 26 ≤ hbmSize)

/-- Starts a replacement. DESIGN CHOICE (assumption 113): R314 and Table 18.3 name no code for these refusals; a staging region
that is misaligned or leaves HBM gives FORMAT, and a TARGET without an image, one above 5 among them, gives ORDER. -/
def State.fwstage (s : State) (d target pa : Nat) : State × Reply :=
  if (s.die d).locked then (s, ⟨false, fwLocked, []⟩)
  else if s.repl.isSome || ((s.die d).fw.getD (target - 1) none).isNone then s.fwRefuse d fwOrder
  else if !(decide (1 ≤ target) && decide (target ≤ 5) && stagingOk pa) then s.fwRefuse d fwFormat
  else
    ({ s.modDie d fun x => { x with fwTarget := target } with
      repl := some ⟨d, target, pa, 1, none, none⟩
      attempts := s.attempts + 1 }, .done)

/-- FWSTAGE (R314). One to a die that no firmware runs on yet is refused under Table 13.1, but a locked die answers it with LOCKED
(R386). -/
def execFwstage (h : Mht) (target : Nat) (pa : Nat) (s : State) : Outcome State Fault Refusal :=
  .next (s.mht (.fwstage h target pa) h (s.die h.die).locked false fun s => s.fwstage h.die target pa)

/-- The image in a staging region. DESIGN CHOICE (assumption 115): the rules say nothing of a region that holds poison or lies
beyond reach; its plain bytes are read. -/
def State.staged (s : State) (pa : Nat) : List Byte :=
  s.hbm.read pa (192 + min (2 ^ 22) (s.hbmNum (pa + 12) 4))

/-- Ends a replacement that has been abandoned (R388). -/
def State.abandon (s : State) (r : Repl) : State := (({ s with repl := none } : State).fwRefuse r.die fwOrder).1

/-- IMAGE_VERIFIED (R315 step 1). -/
def execImageVerified (s : State) : Outcome State Fault Refusal :=
  .next (match s.repl with
    | some r =>
      if r.step = 1 && r.image.isNone && s.opens r.die r.pa (2 ^ 26) then
        let img := s.staged r.pa
        match s.verify img with
        | .ok fw =>
          if imgTarget img = r.target then
            { s.measure r.die r.target fw.digest with repl := some { r with image := some fw } }
          else s.abandon r
        | .error _ => s.abandon r
      else s
    | none => s)

/-- The version of the state records that this model's images write and accept (DESIGN CHOICE, assumption 87). -/
def recordVersion : Nat := 1

/-- The tracts with a tile on a die. -/
def State.tractsOn (s : State) (d : Nat) : List Tract := s.tracts.filter fun t => t.sites.any fun i => i / 64 == d

/-- The sites of a die. -/
def State.dieSites (s : State) (d : Nat) : List Site := (s.sites.drop (64 * d)).take 64

/-- The state that a controller of a die hands over (Table 13.6). -/
def State.handOver (s : State) (d target pa : Nat) : HandOver :=
  match target with
  | 1 => .security (s.die d).meas pa (Config.keyHandle d)
  | 2 => .glen ((s.dieSites d).map Site.pts) ((s.dieSites d).map Site.age) ((s.dieSites d).map Site.replays)
  | 3 => .saddle (s.tracts.map fun t => (t.id, t.req, t.floor, t.lam, t.mu, t.grant.gseq)) (s.die d).bf
      (d == s.leaderDie) s.saddle
  | 4 => .distributor (s.queues.filter fun w => w.q / 32768 == d || s.server w.q == some d) (s.tracts.map fun t => (t.id, t.state))
      ((s.launches.filter fun l => s.isWaiting l && s.server l.q == some d).map fun l => (l.q, l.seq, l.gen)) s.reservations
      ((s.tracts.filter Tract.quantumOver).map Tract.id)
      ((s.ctxs.filter fun c => c.sys.isSome && s.sysDie c == some d).map Ctx.key)
  | _ => .fabric s.routes (s.die d).ports ((s.clpOut.filter fun o => o.port / 4 == d).map ClpOut.tag)

/-- A controller of a die goes on from a state record: what the record holds of its own state is in force again. Trips and
the clamp of an over-current act without firmware (R384, R385), the counting of Glen's windows starts afresh (R300), and the
state of a leader is that of a record which its die wrote as the leader; a reservation that has ended since does not come back
(R277). -/
def State.import (s : State) (d : Nat) (x : HandOver) : State :=
  let lead := d == s.leaderDie
  match x with
  | .security meas _ _ => s.modDie d fun y => { y with meas := meas }
  | .glen pts age _ =>
    { s with sites := s.sites.zipIdx.map fun p =>
        if p.2 / 64 = d then { p.1 with pts := pts.getD (p.2 % 64) p.1.pts, age := age.getD (p.2 % 64) p.1.age } else p.1 }
  | .saddle tracts bf led x =>
    let kept := fun (t : Tract) =>
      match tracts.find? fun y => y.1 = t.id with
      | some (_, req, floor, lam, mu, gseq) =>
        { t with req := req, floor := floor, lam := lam, mu := mu, grant := { t.grant with gseq := gseq } }
      | none => t
    let s1 := { s.modDie d fun y => { y with bf := min y.bf bf } with
      tracts := s.tracts.map fun (t : Tract) => if t.sites.any fun i => i / 64 == d then kept t else t }
    if led then
      { s1 with
        saddle := { s1.saddle with
          cap := x.cap, fallback := x.fallback, beyond := x.beyond, inlet := x.inlet, lastInlet := x.lastInlet
          lastFlow := x.lastFlow, bad := x.bad, good := x.good } }
    else s1
  | .distributor queues _ _ reservations _ _ =>
    { s with
      queues := s.queues.map fun (w : WQueue) => (queues.find? fun y => y.q = w.q).getD w
      reservations := if lead then reservations.filter s.reservations.contains else s.reservations }
  | .fabric routes ports _ =>
    let s1 := s.modDie d fun y => { y with ports := ports }
    if lead then { s1 with routes := routes } else s1

/-- HANDOVER_POINT (R315): at step 1 the old image, between two of its requests, writes its versioned state record; at step 2
the new image starts and imports it. What it imports is its own until its heartbeat (R389). -/
def execHandoverPoint (s : State) : Outcome State Fault Refusal :=
  .next (match s.repl with
    | some r =>
      if r.step = 1 && r.image.isSome then
        { s with repl := some { r with step := 2, record := some (recordVersion, s.handOver r.die r.target r.pa) } }
      else if r.step = 2 then { s with repl := some { r with step := 3 } }
      else s
    | none => s)

/-- HANDOVER_TIMEOUT (R388). -/
def execHandoverTimeout (s : State) : Outcome State Fault Refusal :=
  .next (match s.repl with
    | some r => if r.step = 1 && r.image.isSome then s.abandon r else s
    | none => s)

/-- Glen's windows and runs start afresh on a die (R300). -/
def State.freshWindows (s : State) (d : Nat) : State :=
  let zeros := List.replicate 4 (List.replicate 32 0)
  { s with sites := s.sites.zipIdx.map fun p =>
      if p.2 / 64 = d then { p.1 with lowRuns := zeros, replays := zeros } else p.1 }

/-- The image that runs goes on from the record of step 2, the replacement ends, and what waited for it goes on (R389, Table
13.8). -/
def State.endHandover (s : State) (r : Repl) : State :=
  let s1 := match r.record with
    | some x => s.import r.die x.2
    | none => s
  let s2 := if r.target = 2 then s1.freshWindows r.die else s1
  let s3 := ({ s2 with repl := none } : State).resume
  if r.target = 5 then (s3.mayRetrain r.die).mayRetrain ((r.die + 3) % 4)
  else if r.target = 4 then s3.retest
  else s3

/-- The new image may post its heartbeat: it has imported a record of a version that it accepts (R315). -/
def Repl.beats (r : Repl) : Bool := r.step == 3 && r.record.any fun x => x.1 == recordVersion

/-- HEARTBEAT (R315 steps 4 and 5): the new image runs, and the old one is released. -/
def execHeartbeat (s : State) : Outcome State Fault Refusal :=
  .next (match s.repl with
    | some r =>
      if r.beats then
        (s.modDie r.die fun x =>
          let y := { x with
            repl := x.repl + 1
            fw := x.fw.set (r.target - 1) (r.image.map fun f => { f with beating := true }) }
          if r.target = 4 then y.adopt else y).endHandover r
      else s
    | none => s)

/-- The deadline of the heartbeat runs: from step 3, and for a distributor from step 2 (R315, Table 13.7). -/
def Repl.timed (r : Repl) : Bool := decide (3 ≤ r.step) || (r.target == 4 && decide (2 ≤ r.step))

/-- ROLLBACK (R389): the old image restarts on its record, and its digest extends the measurement. -/
def execRollback (s : State) : Outcome State Fault Refusal :=
  .next (match s.repl with
    | some r =>
      if r.timed then
        let old := ((s.die r.die).fw.getD (r.target - 1) none).getD ⟨0, 0, true⟩
        ((s.endHandover r).measure r.die r.target old.digest).modDie r.die fun x =>
          { x with rollbk := x.rollbk + 1, err := fwRollback }
      else s
    | none => s)

/-- CONTROLLER_SILENT (R370, R390): not counted from a hand-over point to the end of the replacement. -/
def execControllerSilent (die target : Nat) (s : State) : Outcome State Fault Refusal :=
  .next (if s.handingOver die target then s else s.loseDie die)

/-! ### Attestation (R313) -/

/-- The report: nonce, the twenty measurement registers, stage and image SVNs of each die, live replacements. -/
def State.attestation (s : State) (nonce : BitVec 256) : List Byte :=
  beBytes 32 nonce.toNat ++ (s.dies.flatMap fun d => d.meas.flatMap fun m => beBytes 32 m.toNat) ++
    (s.dies.flatMap fun d => leBytes 1 d.stage ++ d.fw.flatMap fun f => leBytes 4 ((f.map Fw.svn).getD 0)) ++
    leBytes 4 s.attempts

/-- ATTEST: it waits while a security core is replaced (R313, Table 13.8). The certificate chain of the key, from the flash,
goes with the report (assumption 6). -/
def execAttest (h : Mht) (nonce : BitVec 256) (s : State) : Outcome State Fault Refusal :=
  .next (s.mht (.attest h nonce) h false (s.replacing 1) fun s =>
    let r := s.attestation nonce
    (s, ⟨true, 0, r ++ leBytes 64 (Config.attestSignature r).toNat ++ s.persist.certChain⟩))

end Sys2Proof.Machine
end

