-- ==== Sys2Proof/Machine/Dispatch.lean ====
section
/-! DEFINITION. The meaning of every row of the opcode table: one arm per constructor, each a call of its own meaning. -/
namespace Sys2Proof.Machine
open Host

/-- The effect of a slot instruction on the context that issues a bundle, or of an event on the module. -/
def exec (i : Instr) (s : State) : Host.Outcome State Fault Refusal :=
  match i with
  | .xim tgt imm => Sys2Proof.Machine.execXim tgt imm s
  | .bpre g bd off => Sys2Proof.Machine.execBpre g bd off s
  | .bpres g bd sa => Sys2Proof.Machine.execBpres g bd sa s
  | .br g bt => Sys2Proof.Machine.execBr g bt s
  | .call g bt => Sys2Proof.Machine.execCall g bt s
  | .ret g => Sys2Proof.Machine.execRet g s
  | .loop g len cnt => Sys2Proof.Machine.execLoop g len cnt s
  | .loopReg g len sa => Sys2Proof.Machine.execLoopReg g len sa s
  | .repm g n => Sys2Proof.Machine.execRepm g n s
  | .repmReg g sa => Sys2Proof.Machine.execRepmReg g sa s
  | .wait g sem n acq => Sys2Proof.Machine.execWait g sem n acq s
  | .waitd g sem n acq => Sys2Proof.Machine.execWaitd g sem n acq s
  | .sig g sem inc sc rel => Sys2Proof.Machine.execSig g sem inc sc rel s
  | .semset g sem v => Sys2Proof.Machine.execSemset g sem v s
  | .evwait g mask => Sys2Proof.Machine.execEvwait g mask s
  | .evclr g mask => Sys2Proof.Machine.execEvclr g mask s
  | .fence g sc => Sys2Proof.Machine.execFence g sc s
  | .fni g ft sc => Sys2Proof.Machine.execFni g ft sc s
  | .fnw g ft => Sys2Proof.Machine.execFnw g ft s
  | .trap g code => Sys2Proof.Machine.execTrap g code s
  | .tret g sv => Sys2Proof.Machine.execTret g sv s
  | .sys g code => Sys2Proof.Machine.execSys g code s
  | .yield g => Sys2Proof.Machine.execYield g s
  | .exit g => Sys2Proof.Machine.execExit g s
  | .add g sd sa sb => Sys2Proof.Machine.execAdd g sd sa sb s
  | .sub g sd sa sb => Sys2Proof.Machine.execSub g sd sa sb s
  | .mul g sd sa sb => Sys2Proof.Machine.execMul g sd sa sb s
  | .mulh g sd sa sb => Sys2Proof.Machine.execMulh g sd sa sb s
  | .mulhz g sd sa sb => Sys2Proof.Machine.execMulhz g sd sa sb s
  | .div g sd sa sb => Sys2Proof.Machine.execDiv g sd sa sb s
  | .divz g sd sa sb => Sys2Proof.Machine.execDivz g sd sa sb s
  | .rem g sd sa sb => Sys2Proof.Machine.execRem g sd sa sb s
  | .remz g sd sa sb => Sys2Proof.Machine.execRemz g sd sa sb s
  | .and g sd sa sb => Sys2Proof.Machine.execAnd g sd sa sb s
  | .or g sd sa sb => Sys2Proof.Machine.execOr g sd sa sb s
  | .xor g sd sa sb => Sys2Proof.Machine.execXor g sd sa sb s
  | .shl g sd sa sb => Sys2Proof.Machine.execShl g sd sa sb s
  | .shr g sd sa sb => Sys2Proof.Machine.execShr g sd sa sb s
  | .sra g sd sa sb => Sys2Proof.Machine.execSra g sd sa sb s
  | .min g sd sa sb => Sys2Proof.Machine.execMin g sd sa sb s
  | .max g sd sa sb => Sys2Proof.Machine.execMax g sd sa sb s
  | .minz g sd sa sb => Sys2Proof.Machine.execMinz g sd sa sb s
  | .maxz g sd sa sb => Sys2Proof.Machine.execMaxz g sd sa sb s
  | .addi g sd sa imm => Sys2Proof.Machine.execAddi g sd sa imm s
  | .andi g sd sa imm => Sys2Proof.Machine.execAndi g sd sa imm s
  | .ori g sd sa imm => Sys2Proof.Machine.execOri g sd sa imm s
  | .xori g sd sa imm => Sys2Proof.Machine.execXori g sd sa imm s
  | .shli g sd sa imm => Sys2Proof.Machine.execShli g sd sa imm s
  | .shri g sd sa imm => Sys2Proof.Machine.execShri g sd sa imm s
  | .srai g sd sa imm => Sys2Proof.Machine.execSrai g sd sa imm s
  | .cmp g fd cc sa sb => Sys2Proof.Machine.execCmp g fd cc sa sb s
  | .cmpi g fd cc sa imm => Sys2Proof.Machine.execCmpi g fd cc sa imm s
  | .flop g fd fa fb tt => Sys2Proof.Machine.execFlop g fd fa fb tt s
  | .sel g sd sa sb fc => Sys2Proof.Machine.execSel g sd sa sb fc s
  | .movi g sd imm => Sys2Proof.Machine.execMovi g sd imm s
  | .movhi g sd imm => Sys2Proof.Machine.execMovhi g sd imm s
  | .clz g sd sa => Sys2Proof.Machine.execClz g sd sa s
  | .popc g sd sa => Sys2Proof.Machine.execPopc g sd sa s
  | .bfx g sd sa sb => Sys2Proof.Machine.execBfx g sd sa sb s
  | .bfi g sd sa sb => Sys2Proof.Machine.execBfi g sd sa sb s
  | .fadd g sd sa sb => Sys2Proof.Machine.execFadd g sd sa sb s
  | .fsub g sd sa sb => Sys2Proof.Machine.execFsub g sd sa sb s
  | .fmul g sd sa sb => Sys2Proof.Machine.execFmul g sd sa sb s
  | .fma g sd sa sb sc => Sys2Proof.Machine.execFma g sd sa sb sc s
  | .fdiv g sd sa sb => Sys2Proof.Machine.execFdiv g sd sa sb s
  | .fsqrt g sd sa => Sys2Proof.Machine.execFsqrt g sd sa s
  | .fcmp g fd cc sa sb => Sys2Proof.Machine.execFcmp g fd cc sa sb s
  | .fcvt g sd sa tfrom tto rm => Sys2Proof.Machine.execFcvt g sd sa tfrom tto rm s
  | .movsa g ad sa => Sys2Proof.Machine.execMovsa g ad sa s
  | .movas g sd aa => Sys2Proof.Machine.execMovas g sd aa s
  | .movsv g vf vd sa => Sys2Proof.Machine.execMovsv g vf vd sa s
  | .csrr g sd n => Sys2Proof.Machine.execCsrr g sd n s
  | .csrw g sa n => Sys2Proof.Machine.execCsrw g sa n s
  | .semrd g sd sem => Sys2Proof.Machine.execSemrd g sd sem s
  | .vand u g vd va vb pg => Sys2Proof.Machine.execVand u g vd va vb pg s
  | .vor u g vd va vb pg => Sys2Proof.Machine.execVor u g vd va vb pg s
  | .vxor u g vd va vb pg => Sys2Proof.Machine.execVxor u g vd va vb pg s
  | .vmov u g vd va pg => Sys2Proof.Machine.execVmov u g vd va pg s
  | .vsel u g vd va vb pg => Sys2Proof.Machine.execVsel u g vd va vb pg s
  | .vsplat u g vd imm pg => Sys2Proof.Machine.execVsplat u g vd imm pg s
  | .vxf u g vd vs pg => Sys2Proof.Machine.execVxf u g vd vs pg s
  | .vadd u g t vd va vb pg => Sys2Proof.Machine.execVadd u g t vd va vb pg s
  | .vsub u g t vd va vb pg => Sys2Proof.Machine.execVsub u g t vd va vb pg s
  | .vmul u g t vd va vb pg => Sys2Proof.Machine.execVmul u g t vd va vb pg s
  | .vmulh u g t vd va vb pg => Sys2Proof.Machine.execVmulh u g t vd va vb pg s
  | .vmin u g t vd va vb pg => Sys2Proof.Machine.execVmin u g t vd va vb pg s
  | .vmax u g t vd va vb pg => Sys2Proof.Machine.execVmax u g t vd va vb pg s
  | .vshl u g t vd va vb pg => Sys2Proof.Machine.execVshl u g t vd va vb pg s
  | .vshr u g t vd va vb pg => Sys2Proof.Machine.execVshr u g t vd va vb pg s
  | .vsra u g t vd va vb pg => Sys2Proof.Machine.execVsra u g t vd va vb pg s
  | .vabs u g t vd va pg => Sys2Proof.Machine.execVabs u g t vd va pg s
  | .vcmp u g t pd va vb cc => Sys2Proof.Machine.execVcmp u g t pd va vb cc s
  | .viota u g t vd imm pg => Sys2Proof.Machine.execViota u g t vd imm pg s
  | .vtrn u g t vd va vb pg => Sys2Proof.Machine.execVtrn u g t vd va vb pg s
  | .vperm u g t vd va vb pg => Sys2Proof.Machine.execVperm u g t vd va vb pg s
  | .vmovs u g t sd va lane => Sys2Proof.Machine.execVmovs u g t sd va lane s
  | .vfadd u g t vd va vb pg => Sys2Proof.Machine.execVfadd u g t vd va vb pg s
  | .vfsub u g t vd va vb pg => Sys2Proof.Machine.execVfsub u g t vd va vb pg s
  | .vfmul u g t vd va vb pg => Sys2Proof.Machine.execVfmul u g t vd va vb pg s
  | .vfma u g t vd va vb pg => Sys2Proof.Machine.execVfma u g t vd va vb pg s
  | .vfnma u g t vd va vb pg => Sys2Proof.Machine.execVfnma u g t vd va vb pg s
  | .vfmin u g t vd va vb pg => Sys2Proof.Machine.execVfmin u g t vd va vb pg s
  | .vfmax u g t vd va vb pg => Sys2Proof.Machine.execVfmax u g t vd va vb pg s
  | .vfsgn u g t vd va vb pg => Sys2Proof.Machine.execVfsgn u g t vd va vb pg s
  | .vfcmp u g t pd va vb cc => Sys2Proof.Machine.execVfcmp u g t pd va vb cc s
  | .vsfu u g fn vd va pg => Sys2Proof.Machine.execVsfu u g fn vd va pg s
  | .vred u g vd va pg => Sys2Proof.Machine.execVred u g vd va pg s
  | .vcomb u g vd va vb pg => Sys2Proof.Machine.execVcomb u g vd va vb pg s
  | .vcvt u g d src rm vd va pg => Sys2Proof.Machine.execVcvt u g d src rm vd va pg s
  | .vqnt u g t vd va pg => Sys2Proof.Machine.execVqnt u g t vd va pg s
  | .vdqnt u g t vd va pg => Sys2Proof.Machine.execVdqnt u g t vd va pg s
  | .plogic u g pd pa pb tt => Sys2Proof.Machine.execPlogic u g pd pa pb tt s
  | .pset u g pd n => Sys2Proof.Machine.execPset u g pd n s
  | .vany u g fd pa => Sys2Proof.Machine.execVany u g fd pa s
  | .vall u g fd pa => Sys2Proof.Machine.execVall u g fd pa s
  | .mopen g ch h d cs mk => Sys2Proof.Machine.execMopen g ch h d cs mk s
  | .mclose g ch => Sys2Proof.Machine.execMclose g ch s
  | .mcomb g ch chb => Sys2Proof.Machine.execMcomb g ch chb s
  | .mout g pl mx t rm => Sys2Proof.Machine.execMout g pl mx t rm s
  | .mlda g pl mx t => Sys2Proof.Machine.execMlda g pl mx t s
  | .mscale g tabB mx => Sys2Proof.Machine.execMscale g tabB mx s
  | .mcfg g cfg => Sys2Proof.Machine.execMcfg g cfg s
  | .mset g md imm => Sys2Proof.Machine.execMset g md imm s
  | .madd g md imm => Sys2Proof.Machine.execMadd g md imm s
  | .mma g t ch mx my ms mt => Sys2Proof.Machine.execMma g t ch mx my ms mt s
  | .mmag g t ch mx my ms mt => Sys2Proof.Machine.execMmag g t ch mx my ms mt s
  | .vld g f v aa disp => Sys2Proof.Machine.execVld g f v aa disp s
  | .vst g f v aa disp => Sys2Proof.Machine.execVst g f v aa disp s
  | .vlds g f v aa ax => Sys2Proof.Machine.execVlds g f v aa ax s
  | .vsts g f v aa ax => Sys2Proof.Machine.execVsts g f v aa ax s
  | .vldb g f v aa disp => Sys2Proof.Machine.execVldb g f v aa disp s
  | .pld g pd aa disp => Sys2Proof.Machine.execPld g pd aa disp s
  | .pst g pd aa disp => Sys2Proof.Machine.execPst g pd aa disp s
  | .aadd g ad aa ab => Sys2Proof.Machine.execAadd g ad aa ab s
  | .aaddi g ad aa imm => Sys2Proof.Machine.execAaddi g ad aa imm s
  | .aset g ad imm => Sys2Proof.Machine.execAset g ad imm s
  | .ald g ad aa disp => Sys2Proof.Machine.execAld g ad aa disp s
  | .ast g ad aa disp => Sys2Proof.Machine.execAst g ad aa disp s
  | .vgth g t f v aa vx => Sys2Proof.Machine.execVgth g t f v aa vx s
  | .vsct g t f v aa vx => Sys2Proof.Machine.execVsct g t f v aa vx s
  | .sld g t sd aa disp => Sys2Proof.Machine.execSld g t sd aa disp s
  | .sst g t sd aa disp => Sys2Proof.Machine.execSst g t sd aa disp s
  | .latom g t op sd aa sb ord => Sys2Proof.Machine.execLatom g t op sd aa sb ord s
  | .cpy g ad src ac => Sys2Proof.Machine.execCpy g ad src ac s
  | .cpy2 g ad src ac ax => Sys2Proof.Machine.execCpy2 g ad src ac ax s
  | .cpyt g ad src ac => Sys2Proof.Machine.execCpyt g ad src ac s
  | .cpylt g ad src ac => Sys2Proof.Machine.execCpylt g ad src ac s
  | .cpya g ad src ac => Sys2Proof.Machine.execCpya g ad src ac s
  | .cpyz g ad ac => Sys2Proof.Machine.execCpyz g ad ac s
  | .cpyg g ad src ac ax => Sys2Proof.Machine.execCpyg g ad src ac ax s
  | .cpyr g ar => Sys2Proof.Machine.execCpyr g ar s
  | .atom g t op aa ac sv ord => Sys2Proof.Machine.execAtom g t op aa ac sv ord s
  | .atomFadd g aa ac sv => Sys2Proof.Machine.execAtomFadd g aa ac sv s
  | .atomx g aa ar ac => Sys2Proof.Machine.execAtomx g aa ar ac s
  | .rst g ad src ac => Sys2Proof.Machine.execRst g ad src ac s
  | .rsts g ar sv ac => Sys2Proof.Machine.execRsts g ar sv ac s
  | .rcpy g ad src ac => Sys2Proof.Machine.execRcpy g ad src ac s
  | .rget g ad src ac => Sys2Proof.Machine.execRget g ad src ac s
  | .rsig g ar inc sc rel => Sys2Proof.Machine.execRsig g ar inc sc rel s
  | .mcast g ad src ac ax => Sys2Proof.Machine.execMcast g ad src ac ax s
  | .ratom g t op aa ac sv ord => Sys2Proof.Machine.execRatom g t op aa ac sv ord s
  | .resultLand k n => Sys2Proof.Machine.execResultLand k n s
  | .waitRetire k => Sys2Proof.Machine.execWaitRetire k s
  | .fnwRetire k => Sys2Proof.Machine.execFnwRetire k s
  | .fenceRetire k => Sys2Proof.Machine.execFenceRetire k s
  | .evwaitRetire k => Sys2Proof.Machine.execEvwaitRetire k s
  | .sysReply k => Sys2Proof.Machine.execSysReply k s
  | .latomPerform k => Sys2Proof.Machine.execLatomPerform k s
  | .copyRequestServe k e => Sys2Proof.Machine.execCopyRequestServe k e s
  | .lmPortServe site => Sys2Proof.Machine.execLmPortServe site s
  | .channelServe ch => Sys2Proof.Machine.execChannelServe ch s
  | .atomicPerform h => Sys2Proof.Machine.execAtomicPerform h s
  | .atomxRoutineRun ch => Sys2Proof.Machine.execAtomxRoutineRun ch s
  | .remoteArrival m => Sys2Proof.Machine.execRemoteArrival m s
  | .walkReadReturn die w => Sys2Proof.Machine.execWalkReadReturn die w s
  | .copyComplete k e => Sys2Proof.Machine.execCopyComplete k e s
  | .copyCut k e => Sys2Proof.Machine.execCopyCut k e s
  | .copyFatal k e => Sys2Proof.Machine.execCopyFatal k e s
  | .mUnitStart site => Sys2Proof.Machine.execMUnitStart site s
  | .mUnitEnd site => Sys2Proof.Machine.execMUnitEnd site s
  | .mmagSliceArrive k sender => Sys2Proof.Machine.execMmagSliceArrive k sender s
  | .timingReplay site => Sys2Proof.Machine.execTimingReplay site s
  | .mhtRegrd h off => Sys2Proof.Machine.execMhtRegrd h off s
  | .mhtRegwr h off v => Sys2Proof.Machine.execMhtRegwr h off v s
  | .mhtMemrd h pa len => Sys2Proof.Machine.execMhtMemrd h pa len s
  | .mhtMemwr h pa bytes => Sys2Proof.Machine.execMhtMemwr h pa bytes s
  | .bootload h image => Sys2Proof.Machine.execBootload h image s
  | .fwstage h target pa => Sys2Proof.Machine.execFwstage h target pa s
  | .attest h nonce => Sys2Proof.Machine.execAttest h nonce s
  | .evpost h queue seq => Sys2Proof.Machine.execEvpost h queue seq s
  | .nreply h k v => Sys2Proof.Machine.execNreply h k v s
  | .steppe h => Sys2Proof.Machine.execSteppe h s
  | .invAll h v => Sys2Proof.Machine.execInvAll h v s
  | .invAsid h v => Sys2Proof.Machine.execInvAsid h v s
  | .invRange h v => Sys2Proof.Machine.execInvRange h v s
  | .invGlobal h v => Sys2Proof.Machine.execInvGlobal h v s
  | .devcfgWrite h v => Sys2Proof.Machine.execDevcfgWrite h v s
  | .routeEntryWrite h n v => Sys2Proof.Machine.execRouteEntryWrite h n v s
  | .savebaseWrite h v => Sys2Proof.Machine.execSavebaseWrite h v s
  | .tkill h v => Sys2Proof.Machine.execTkill h v s
  | .errsumClear h v => Sys2Proof.Machine.execErrsumClear h v s
  | .fenceRequest h site v => Sys2Proof.Machine.execFenceRequest h site v s
  | .queueEnable q => Sys2Proof.Machine.execQueueEnable q s
  | .queueDisable q => Sys2Proof.Machine.execQueueDisable q s
  | .doorbell q => Sys2Proof.Machine.execDoorbell q s
  | .launchTake q => Sys2Proof.Machine.execLaunchTake q s
  | .groupMatch q seq others => Sys2Proof.Machine.execGroupMatch q seq others s
  | .placeLaunch q seq sites => Sys2Proof.Machine.execPlaceLaunch q seq sites s
  | .reservation q seq dies => Sys2Proof.Machine.execReservation q seq dies s
  | .allocDone k => Sys2Proof.Machine.execAllocDone k s
  | .tractStart t peersReady => Sys2Proof.Machine.execTractStart t peersReady s
  | .quantumEnd t => Sys2Proof.Machine.execQuantumEnd t s
  | .switchOut t => Sys2Proof.Machine.execSwitchOut t s
  | .tractSaved t => Sys2Proof.Machine.execTractSaved t s
  | .switchIn t sites => Sys2Proof.Machine.execSwitchIn t sites s
  | .launchComplete t => Sys2Proof.Machine.execLaunchComplete t s
  | .doneAdvance q => Sys2Proof.Machine.execDoneAdvance q s
  | .tractEnd t => Sys2Proof.Machine.execTractEnd t s
  | .tdrainExpiry t => Sys2Proof.Machine.execTdrainExpiry t s
  | .peerEndNews gid => Sys2Proof.Machine.execPeerEndNews gid s
  | .reissue q seq sites => Sys2Proof.Machine.execReissue q seq sites s
  | .grantTakeEffect k => Sys2Proof.Machine.execGrantTakeEffect k s
  | .budgetWindow a => Sys2Proof.Machine.execBudgetWindow a s
  | .budgetAdjust die mw => Sys2Proof.Machine.execBudgetAdjust die mw s
  | .coolantReport r => Sys2Proof.Machine.execCoolantReport r s
  | .overcurrentCheck die mw => Sys2Proof.Machine.execOvercurrentCheck die mw s
  | .oclRelease die => Sys2Proof.Machine.execOclRelease die s
  | .thermalTrip site deg => Sys2Proof.Machine.execThermalTrip site deg s
  | .tripRelease site deg => Sys2Proof.Machine.execTripRelease site deg s
  | .glenWindow site dom step replays => Sys2Proof.Machine.execGlenWindow site dom step replays s
  | .fenceSite site => Sys2Proof.Machine.execFenceSite site s
  | .uncorrectableError l => Sys2Proof.Machine.execUncorrectableError l s
  | .linkWindow edge rplA rplB => Sys2Proof.Machine.execLinkWindow edge rplA rplB s
  | .retrainAttempt edge modsA modsB => Sys2Proof.Machine.execRetrainAttempt edge modsA modsB s
  | .routeResync edge => Sys2Proof.Machine.execRouteResync edge s
  | .ltoExpiry edge => Sys2Proof.Machine.execLtoExpiry edge s
  | .dieLoss die => Sys2Proof.Machine.execDieLoss die s
  | .portLoss die p => Sys2Proof.Machine.execPortLoss die p s
  | .portDown die p => Sys2Proof.Machine.execPortDown die p s
  | .channelLost ch => Sys2Proof.Machine.execChannelLost ch s
  | .powerOn cooling => Sys2Proof.Machine.execPowerOn cooling s
  | .bootHeartbeatTimeout die => Sys2Proof.Machine.execBootHeartbeatTimeout die s
  | .controllerSilent die target => Sys2Proof.Machine.execControllerSilent die target s
  | .releasePerform k n => Sys2Proof.Machine.execReleasePerform k n s
  | .portUp die p => Sys2Proof.Machine.execPortUp die p s
  | .nop => Sys2Proof.Machine.execNop s
  | .invalidationComplete => Sys2Proof.Machine.execInvalidationComplete s
  | .arbitrate => Sys2Proof.Machine.execArbitrate s
  | .powerLoss => Sys2Proof.Machine.execPowerLoss s
  | .bootStageAdvance => Sys2Proof.Machine.execBootStageAdvance s
  | .imageVerified => Sys2Proof.Machine.execImageVerified s
  | .handoverPoint => Sys2Proof.Machine.execHandoverPoint s
  | .handoverTimeout => Sys2Proof.Machine.execHandoverTimeout s
  | .heartbeat => Sys2Proof.Machine.execHeartbeat s
  | .rollback => Sys2Proof.Machine.execRollback s
  | .steppeWrite => Sys2Proof.Machine.execSteppeWrite s
  | .expcapWindow => Sys2Proof.Machine.execExpcapWindow s
  | .overcurrentCapRestore => Sys2Proof.Machine.execOvercurrentCapRestore s
  | .overcurrentCapCut => Sys2Proof.Machine.execOvercurrentCapCut s
  | .fenceComplete => Sys2Proof.Machine.execFenceComplete s

end Sys2Proof.Machine
end

