-- ==== Sys2Proof/Machine/Issue.lean ====
section
/-! DEFINITION. Issue: the bundle that a context offers (R139, R281), the merge stage of a site (R281, R282), and one
V-cycle. Slots are run in the order XIM, S, VA, VB, M, Q, N, L, B on one context; register writes go in flight, so every slot
reads the registers from before the bundle (R135). -/
namespace Sys2Proof.Machine
open Host

/-- Runs one slot of the bundle at work. -/
def State.runSlot (s : State) (i : Instr) : State :=
  match exec i s with
  | .next t => t
  | _ => s

/-- The context at work; c where none is. -/
def State.curOr (s : State) (c : Ctx) : Ctx := s.cur.getD c

/-- A FENCE that may retire has every load landed before its bundle issues (R101). -/
def Ctx.fenced (c : Ctx) : Ctx :=
  match c.insn .B with
  | .fence g sc => if c.guardOk g && c.quiet c.issued sc then c.landLoads else c
  | _ => c

/-- Brings the next bundle of a context to work: the loads of a FENCE land, and an XIM lends its bits (R132). Its remote
addresses are compared with this device's index, once that is set (R308). -/
def State.begin (s : State) (c : Ctx) : State :=
  let dev := if s.devSet then some s.devId else none
  let s1 := { s with cur := some { c.fenced with issue := { Issue.idle with dev := dev } } }
  match c.insn .B with
  | .xim t v => s1.runSlot (.xim t v)
  | _ => s1

/-- Slots in the order in which they are run. L comes behind Q and N (R90), and B last (R97, R100, R163). -/
def runOrder : List Slot := [.S, .VA, .VB, .M, .Q, .N, .L, .B]

/-- The lowest slot that raises a fault of item 5 of R139, as the context after it. Each slot is tried by itself. -/
def State.slotFault (s : State) (c : Ctx) : Option Ctx :=
  (allSlots.map fun sl => (s.runSlot (c.insn sl)).curOr c).find? fun x => x.issue.raised = .fault

/-- Runs the slots of the bundle one after another. -/
def State.runSlots (s : State) (c : Ctx) : State := runOrder.foldl (fun t sl => t.runSlot (c.insn sl)) s

/-- True when the L slot makes an access of LM or AS by this word, whatever its guard: address arithmetic makes none. -/
def lAccess (w : Word32) : Bool := w != 0 && opOf w != 0x08 && opOf w != 0x09 && opOf w != 0x0A

/-- The bundle performs an L-slot access: its guard is true as well. -/
def Ctx.usesPort (c : Ctx) : Bool :=
  let w := slotOf c.words 5
  lAccess w && (c.f[(fld w 20 3).toNat]'(fld w 20 3).isLt != w.getLsbD 23)

/-- A held LATOM's result must have landed when the sixth following bundle issues (R241). -/
def Ctx.latomLate (c : Ctx) : Bool := c.latom.any fun h => decide (h.bundle + 6 ≤ c.issued)

/-- What a context offers the merge stage (R281): nothing, as a stall of its own holds the bundle; a fault, taken at
once (R139); a wait that cannot retire; or its bundle, with the state in which its slots have run. -/
inductive Offer where
  | stall
  | fault (c : Ctx)
  | wait
  | ready (s : State)

/-- The offer of a context. port is true while a copy engine takes the LM port's cycle (R58). A pending transfer arrives with the
bundle that it names (R157): where that faults or traps it has not issued, and loops and transfer stand as before (R154). -/
def State.offer (s : State) (c : Ctx) (port : Bool) : Offer :=
  match c.fetchFault with
  | some (code, sl, d) => .fault (c.raise code sl d)
  | none =>
    let s1 := s.begin c.arrive
    match s1.slotFault c with
    | some x => .fault { x with loops := c.loops, xfer := c.xfer }
    | none =>
      if ((s1.runSlot (c.insn .B)).curOr c).issue.held && ((s1.runSlot (c.insn .B)).curOr c).status == .waiting then .wait
      else if c.latomLate || (port && c.usesPort) then .stall
      else
        let trapped := (s.begin c).runSlot (c.insn .S)
        let ran := s1.runSlots c
        if (ran.curOr c).issue.held then .stall
        else if (trapped.curOr c).issue.raised == .det then .ready trapped
        else .ready ran

/-! ### The end of a bundle -/

/-- The context behind its issued bundle: a trapped bundle has moved on already (R51), an EXIT goes nowhere (R40), and
any other bundle moves the program counter and lands what is due. old is the pending transfer and ret the value of a
TRET before the bundle. n numbers the free values. -/
def Ctx.finish (c : Ctx) (old : Option Xfer) (ret : Bool) (n : Nat) : Ctx :=
  if c.issue.raised = .det then { c with issue := Issue.idle }
  else
    let c1 := if c.status = .exited then c else c.advance old
    let c2 := if ret then { c1 with tretVal := none } else c1
    { c2.retire n with issue := Issue.idle }

/-- Puts a context back into the module. -/
def State.putCtx (s : State) (c : Ctx) : State := { s.modCtx c.key fun _ => c with cur := none }

/-- The bundle that c offered issues: s is the state in which its slots have run. An arbitration is due as the context exits
(R291). -/
def State.commit (s : State) (c : Ctx) : State :=
  let x := s.curOr c
  let y := x.finish c.arrive.xfer c.tretVal.isSome s.fresh
  let t := { s with fresh := s.fresh + x.inflight.length }.putCtx y
  if y.status = .exited then t.wantArbitration else t

/-- A fault ends the context's issue, and a wait that cannot retire makes it WAITING (R37, R139); a context that
offers its bundle, or stalls, is in RUN. -/
def State.settle (s : State) (c : Ctx) (o : Offer) : State :=
  match o with
  | .fault x => s.putCtx { x with status := .run, issue := Issue.idle }
  | .wait => s.putCtx { c with status := .waiting }
  | .stall => s
  | .ready _ => s

/-! ### The merge stage of a site (R44, R45, R281) -/

/-- A context's bundles may issue: it has no fatal report, its tract runs and is not to end, none of the tract's sites drains or
has left service, and its own die is in service (R347, R361, R363, R370, R373). -/
def State.goesOn (s : State) (c : Ctx) : Bool :=
  c.fatal.isNone && (s.die (c.site / 64)).inService &&
    (s.tract c.key.tract).any fun t => t.state == .running && t.cause.isNone && !s.sitesFail t

/-- A context whose bundle may be offered: RUN, or held at a wait. -/
def State.issues (s : State) (c : Ctx) : Bool := c.status == .run && s.goesOn c

/-- A context that counts V-cycles of its site. -/
def State.counts (s : State) (c : Ctx) : Bool := (c.status == .run || c.status == .waiting) && s.goesOn c

/-- The bundle is offered. -/
def Offer.isReady : Offer → Bool
  | .ready _ => true
  | _ => false

/-- The words of two bundles occupy one slot. -/
def clash (a b : Ctx) : Bool := (List.range 8).any fun i => occupied a.words i && occupied b.words i

/-- Which contexts issue, and the turn after the cycle (R281). -/
structure Merge where
  issueE : Bool
  issueB : Bool
  turnBulk : Bool
deriving DecidableEq, Repr

/-- The rule of R281. e and b say whether express and bulk offer. -/
def merge (e b conflict capped turnBulk : Bool) : Merge :=
  if e && b && conflict && capped && turnBulk then ⟨false, true, false⟩
  else if e then ⟨true, b && !conflict, turnBulk || (b && conflict && capped)⟩
  else ⟨false, b, turnBulk⟩

/-- True when a copy engine that has waited three V-cycles for the site's LM port takes it from the L slot (R58): in at most one
V-cycle of four, for both engines together (R280). -/
def Site.portTaken (x : Site) : Bool := x.portRest == 0 && (decide (3 ≤ x.waitQ) || decide (3 ≤ x.waitN))

/-- Issues the bundle of a context that offers one. -/
def State.issueOf (s : State) (k : CtxKey) (port : Bool) : State :=
  match s.ctx k with
  | some c =>
    match s.offer c port with
    | .ready t => t.commit c
    | _ => s
  | none => s

/-- Takes the faults and waits that a context's next bundle meets. -/
def State.settleOf (s : State) (k : CtxKey) (port : Bool) : State :=
  match s.ctx k with
  | some c => s.settle c (s.offer c port)
  | none => s

/-- The context of a class on a site that may issue. -/
def State.issuer (s : State) (site : Nat) (express : Bool) : Option Ctx :=
  s.ctxs.find? fun c => c.site == site && c.express == express && s.issues c

/-- The context of a class on a site whose next bundle is checked in this V-cycle, WAITING included (R139). DESIGN CHOICE
(assumption 88): one that waits for a SYS reply is held at no bundle, and its next bundle is checked once the reply is there. -/
def State.held (s : State) (site : Nat) (express : Bool) : Option Ctx :=
  s.ctxs.find? fun c => c.site == site && c.express == express && s.counts c && c.sys.isNone

/-- True when the context offers its bundle. -/
def State.offers (s : State) (c : Option Ctx) (port : Bool) : Bool :=
  match c with
  | some c => (s.offer c port).isReady
  | none => false

/-- What the merge stage of a site decides in this V-cycle. -/
def State.mergeAt (s : State) (site : Nat) (port : Bool) : Merge :=
  let x := s.site site
  let e := s.issuer site true
  let b := s.issuer site false
  let conflict := match e, b with
    | some ce, some cb => clash ce cb
    | _, _ => false
  let k := max 1 (min 64 (s.die (site / 64)).expcap)
  merge (s.offers e port) (s.offers b port) conflict (decide (k * 1024 ≤ x.exprCount)) x.bulkTurn

/-- Runs f on the key of a context, if there is one. -/
def onKey (c : Option Ctx) (f : CtxKey → State → State) (s : State) : State :=
  match c with
  | some c => f c.key s
  | none => s

/-- The keys of the contexts that a merge issues. -/
def Merge.keys (m : Merge) (e b : Option Ctx) : List CtxKey :=
  (if m.issueE then (e.map Ctx.key).toList else []) ++ if m.issueB then (b.map Ctx.key).toList else []

/-- A site behind a V-cycle that issued the bundles of some contexts. No squash of this issue has been met (R299). -/
def Site.tick (x : Site) (m : Merge) (idle : Bool) (issued : List CtxKey) : Site :=
  { x with
    vcount := x.vcount + 1
    exprCount := if m.issueE then x.exprCount + 1 else x.exprCount
    bulkTurn := m.turnBulk
    last := issued
    squash := 0
    squashTop := 0
    halfRate := if idle || m.issueE || m.issueB then x.halfRate - 1 else x.halfRate }

/-- Counts a V-cycle of a site: CLOCK of the contexts on it (R26), and the window of R45. -/
def State.tick (s : State) (site : Nat) (m : Merge) (idle : Bool) (issued : List CtxKey) : State :=
  ({ s with ctxs := s.ctxs.map fun (c : Ctx) =>
    if c.site == site && s.counts c then { c with clock := (c.clock + 1) % 2 ^ 64 } else c } : State).modSite site fun x =>
      x.tick m idle issued

/-- The wait of a copy engine after a V-cycle: one more where a request of it waits and none has been served since the last
one (R58). -/
def portWaited (wait : Nat) (wants served : Bool) : Nat := if wants && !served then wait + 1 else 0

/-- The copy engines' waits for a site's LM port after a V-cycle, in which port says that one took it from the L slot. -/
def State.portWait (s : State) (site : Nat) (port : Bool) : State :=
  let wants := fun (remote : Bool) => (s.portFirst site remote).isSome
  s.modSite site fun x =>
    { x with
      waitQ := portWaited x.waitQ (wants false) x.servedQ
      waitN := portWaited x.waitN (wants true) x.servedN
      servedQ := false
      servedN := false
      portRest := if port then 3 else x.portRest - 1 }

/-- In the cycle that a copy engine takes, the port serves it (R58). -/
def State.portTake (s : State) (site : Nat) (port : Bool) : State :=
  if port then (s.portServe site fun _ => true).getD s else s

/-- Every check that a site makes of the next bundles in a V-cycle: the faults and waits that they meet (R139). -/
def State.settleSite (s : State) (site : Nat) (port : Bool) : State :=
  onKey (s.held site false) (fun k t => t.settleOf k port) (onKey (s.held site true) (fun k t => t.settleOf k port) s)

/-- One V-cycle of a site with a counted context; the clocks of any other site are stopped (R284). Its clocks and its regulator
make a move (R301). A window of R45 that has had its cycles ends. After a replay, every second cycle issues nothing for 32 issues
(R299). -/
def State.siteCycle (s : State) (site : Nat) : State :=
  if (s.countedOn site).isEmpty then s
  else
    let s0 := (s.regulate site).modSite site Site.window
    let port := (s0.site site).portTaken
    let e := s0.issuer site true
    let b := s0.issuer site false
    let s1 := s0.settleSite site port
    if (s0.site site).halfRate % 2 = 1 then
      ((s1.portTake site port).portWait site port).tick site ⟨false, false, (s0.site site).bulkTurn⟩ true []
    else
      let m := s1.mergeAt site port
      let s2 := if m.issueE then onKey e (fun k t => t.issueOf k port) s1 else s1
      let s3 := if m.issueB then onKey b (fun k t => t.issueOf k port) s2 else s2
      ((s3.portTake site port).portWait site port).tick site m false (m.keys e b)

/-- Moves the contexts of a site behind the others, so that each site has its turn. -/
def State.rotate (s : State) (site : Nat) : State :=
  { s with ctxs := (s.ctxs.filter fun (c : Ctx) => c.site != site) ++ s.ctxs.filter fun (c : Ctx) => c.site == site }

/-- The module issues: a die with a host port is in service (R371). -/
def State.awake (s : State) : Bool := (s.die 0).inService || (s.die 2).inService

/-- One V-cycle of a site that the agenda names. -/
def State.cycleOf (s : State) (site : Nat) : State := if s.awake then s.siteCycle site else s

/-- One V-cycle: of the site of the first context that can use one. -/
def State.vCycle (s : State) : State :=
  match s.ctxs.find? fun c => s.counts c with
  | some c => if s.awake then (s.siteCycle c.site).rotate c.site else s
  | none => s

end Sys2Proof.Machine
end

