-- ==== Sys2Proof/Machine/Schedule.lean ====
section
/-! DEFINITION. The model's own schedule (assumption 1): which event comes next where the agenda names none. The spec
leaves the order of agents and the moments of their events open; this is one order that it admits, in which everything
that can move does so before the next V-cycle. And the state in which a given word is the next one issued. -/
namespace Sys2Proof.Machine
open Host

/-! ### Events that may be enabled -/

/-- Boot and firmware: a stage whose images are loaded, and the course of a replacement. -/
def State.firmwareMoves (s : State) : List Instr :=
  if s.repl.isSome then [.imageVerified, .handoverPoint, .heartbeat]
  else if s.ctxs.isEmpty then [.bootStageAdvance] else []

/-- Queues, launches and their groups. -/
def State.queueMoves (s : State) : List Instr :=
  (s.ctlEvents.flatMap fun e => [.queueEnable e.q, .queueDisable e.q]) ++ s.bells.map .doorbell ++
    ((s.queues.filter fun w => w.en && w.head != w.tail).map fun w => .launchTake w.q) ++
    ((s.launches.filter fun l => l.phase == .taken && (l.g == 1 || !s.devSet)).map fun l => .groupMatch l.q l.seq []) ++
    if s.launches.isEmpty then [] else s.queues.map fun w => .doneAdvance w.q

/-- Tracts that end, leave, are saved, start or complete. -/
def State.tractMoves (s : State) : List Instr :=
  s.tracts.flatMap fun t =>
    (if (s.endCause t).isSome then [.tractEnd t.id] else []) ++
      (if t.switchable && (s.members t.id).any Ctx.yielded then [.quantumEnd t.id] else []) ++
      (if t.switchable && s.mustLeave t then [.switchOut t.id] else []) ++
      (if t.state == .saving then [.tractSaved t.id] else []) ++
      (if s.startable t then [.tractStart t.id false] else []) ++
      if t.state == .ending || (s.members t.id).all Ctx.done then [.launchComplete t.id] else []

/-- The event that places a launch on the sites that this model's distributor takes. -/
def State.placeMove (s : State) (l : Launch) : List Instr :=
  match s.chooseSites l [], l.phase with
  | some sites, .placed t => [.switchIn t sites]
  | some sites, .reissue _ => [.reissue l.q l.seq sites]
  | some sites, _ => [.placeLaunch l.q l.seq sites]
  | none, _ => []

/-- The launches whose turn it is; the first that can be placed where no launch is next on all of its dies (assumption 77). -/
def State.placeMoves (s : State) : List Instr :=
  let ready := s.waitingLaunches.filter s.isNext
  (if ready.isEmpty then s.untied.toList else ready).flatMap s.placeMove

/-- Grants: an arbitration that is due, and the tiles that have still to take a grant, falling ones first. -/
def State.grantMoves (s : State) : List Instr :=
  let due := fun (f : Bool) =>
    (s.tracts.filter fun t => t.next.isSome && t.falls == f).flatMap fun t =>
      (s.members t.id).map fun c => Instr.grantTakeEffect c.key
  (if s.saddle.pending then [.arbitrate] else []) ++ due true ++ due false

/-- What a context waits for. -/
def Ctx.moves (c : Ctx) : List Instr :=
  (if c.status = .alloc then [.allocDone c.key] else []) ++
    (if c.sys.isSome then [.sysReply c.key] else []) ++
    (if c.latom.isSome then [.latomPerform c.key] else []) ++
    (if c.status = .waiting then
      [.waitRetire c.key, .fnwRetire c.key, .fenceRetire c.key, .evwaitRetire c.key] else []) ++
    ((List.range (c.rels.length + c.ops.length)).map fun i => .releasePerform c.key i) ++
    c.ops.flatMap fun o =>
      [.copyComplete c.key o.e, .copyCut c.key o.e, .copyFatal c.key o.e, .copyRequestServe c.key o.e]

/-- The home that serves a request. -/
def State.requestMoves (s : State) : List Instr :=
  s.reqs.flatMap fun r =>
    match r.place with
    | .hbm pa => [.channelServe (paChan pa), .atomicPerform (.channel (paChan pa)), .atomxRoutineRun (paChan pa)]
    | .lm k _ | .ts k _ | .asPlane k _ =>
      match s.ctx k with
      | some c => [.lmPortServe c.site, .atomicPerform (.lm k)]
      | none => []
    | .sem .. | .dev .. => []

/-- Windows of byte budgets pass while requests wait for one. -/
def State.windowMoves (s : State) : List Instr :=
  if s.reqs.isEmpty && s.transit.isEmpty && s.ctxs.all fun c => c.ops.isEmpty then []
  else
    ((List.range 384).filter fun ch => !(s.chan ch).arb.spent.isEmpty).map (fun ch => .budgetWindow (.channel ch)) ++
      (List.range 4).flatMap fun d => [.budgetWindow (.link d true), .budgetWindow (.link d false)]

/-- Walks in flight. -/
def State.walkMoves (s : State) : List Instr :=
  s.dies.zipIdx.flatMap fun p =>
    (p.1.walkers.zipIdx.filter fun w => w.1.ended.isNone).map fun w => .walkReadReturn p.2 w.2

/-- Matrix engines. -/
def State.matrixMoves (s : State) : List Instr :=
  (s.ctxs.filter fun c => !c.mq.isEmpty).flatMap fun c =>
    (c.mmagOut.map fun x => .mmagSliceArrive ⟨c.key.tract, x.dest⟩ c.key.rank) ++ [.mUnitEnd c.site, .mUnitStart c.site]

/-- Failures under way, and the generation that Glen owes. -/
def State.faultMoves (s : State) : List Instr :=
  ((List.range 256).filter fun i => (s.site i).wantFence).map .fenceSite ++
    (if s.emptyDrain.isSome then [.fenceComplete] else []) ++
    ((List.range 4).filter s.severed).map .dieLoss ++
    ((List.range 4).filter fun e => (s.edge e).st = 2 && !(s.edge e).synced).map .routeResync ++
    if s.steppeDue then [.steppeWrite] else []

/-- Everything that may be enabled, in the order in which the model looks at it. -/
def State.candidates (s : State) : List Instr :=
  s.faultMoves ++ s.firmwareMoves ++ s.queueMoves ++ s.tractMoves ++ s.placeMoves ++ s.grantMoves ++ s.walkMoves ++
    s.requestMoves ++ s.ctxs.flatMap Ctx.moves ++ s.matrixMoves ++ s.inbox.map .remoteArrival ++
    (if s.invBusy then [.invalidationComplete] else []) ++ s.windowMoves

/-- The first event that changes the state. -/
def State.nextInternal (s : State) : Option State :=
  s.candidates.findSome? fun i =>
    match exec i s with
    | .next t => if t = s then none else some t
    | _ => none

/-- What happens next where the agenda names nothing: an event, a grant of a die link, or a V-cycle. -/
def State.proceed (s : State) : State :=
  match s.nextInternal with
  | some t => t
  | none => s.linkMove.getD s.vCycle

/-! ### A given word as the next one issued -/

/-- The bundle whose only occupied slot holds a word: the first slot that admits it (assumption 4). -/
def wordBundle (w : Word32) : List Byte :=
  let n := match firstSlot w with
    | some (sl, _) => allSlots.idxOf sl
    | none => 0
  (List.range 8).flatMap fun i => word32Bytes (if i = n then w else 0)

/-- A launch of one rank: bulk, of no group, in address space 1. -/
def fetchInfo : LaunchInfo := ⟨1, 0, 0, 1, 0, 1, none, 0, 0⟩

/-- A context in RUN on site 0 at bundle 0, with partitions of every kind, whose code is one bundle. -/
def fetchContext (w : Word32) : Ctx :=
  { Ctx.entry ⟨0, 0⟩ 0 fetchInfo ⟨16, 16, 16, 4, 1⟩ 0 0 0 [] with
    status := .run
    istore := memoryOf [(0, wordBundle w)] }

/-- The tract of that context: it runs, and nothing is due for it. -/
def fetchTract : Tract :=
  ⟨0, 0, 0, false, 0, 1, 0, false, [0], .running, none, Grant.zero, Grant.zero, Grant.zero, none, 32, 32, 0, 0, false,
    false, false, [], false, none⟩

end Sys2Proof.Machine
end

