-- ==== Sys2Proof/Machine/Step.lean ====
section
/-! DEFINITION. One step of the module: the next turn of the agenda, else an event that is enabled, a grant of a die link, or
a V-cycle. -/
namespace Sys2Proof.Machine
open Host

/-- One turn (assumption 1). -/
def State.turn (s : State) : Host.Outcome State Fault Refusal :=
  match s.agenda with
  | .event i :: rest => exec i { s with agenda := rest }
  | .cycle site :: rest => .next (({ s with agenda := rest } : State).cycleOf site)
  | .link e cw n :: rest => .next ((({ s with agenda := rest } : State).linkServe e cw n).getD { s with agenda := rest })
  | [] => .next s.proceed

/-- One step: the distributors receive the fault reports made since the last one, and note which tracts their sites fail (R347,
R363), and the next turn comes. -/
def step (s : State) : Host.Outcome State Fault Refusal := s.receive.turn

/-- s with one context running on site 0, whose next bundle holds the word, and that site's V-cycle as the next turn
(assumption 45). -/
def State.withFetchWord (s : State) (nbits w : Nat) : State :=
  { s with
    cur := none
    agenda := [.cycle 0]
    ctxs := [fetchContext (tableWord nbits w)]
    tracts := [fetchTract] }

end Sys2Proof.Machine
end

