-- ==== Sys2Proof/Laws/Encoding.lean ====
section
/-! SUPPORT. Lemmas of the decoder and the encoder: the parts of an append, the fields of an encoded word, and the codes
of each type. -/
namespace Sys2Proof

/-! ### Parts of an append -/

@[simp] theorem ext_lo {v w lo n : Nat} (a : BitVec v) (b : BitVec w) (h : lo + n ≤ w) :
    @BitVec.extractLsb' (no_index (v + w)) lo n
      (@HAppend.hAppend (BitVec v) (BitVec w) (no_index (BitVec (v + w))) _ a b) = b.extractLsb' lo n :=
  BitVec.extractLsb'_append_eq_of_add_le h

@[simp] theorem ext_hi {v w lo n : Nat} (a : BitVec v) (b : BitVec w) (h : w ≤ lo) :
    @BitVec.extractLsb' (no_index (v + w)) lo n
      (@HAppend.hAppend (BitVec v) (BitVec w) (no_index (BitVec (v + w))) _ a b) = a.extractLsb' (lo - w) n :=
  BitVec.extractLsb'_append_eq_of_le h

@[simp] theorem get_append {v w i : Nat} (a : BitVec v) (b : BitVec w) :
    @BitVec.getLsbD (no_index (v + w))
      (@HAppend.hAppend (BitVec v) (BitVec w) (no_index (BitVec (v + w))) _ a b) i =
      if i < w then b.getLsbD i else a.getLsbD (i - w) := by
  rw [BitVec.getLsbD_append]

/-! ### Fields of an encoded word -/

section
variable (op : BitVec 8) (g : Guard) (o : BitVec 20)

@[simp] theorem fld_op : BitVec.extractLsb' 24 8 (slotWord op g o) = op := by
  simp [slotWord, ext_hi]

@[simp] theorem opOf_slotWord : opOf (slotWord op g o) = op.toNat := by simp [opOf]

@[simp] theorem fld_row : BitVec.extractLsb' 27 5 (slotWord op g o) = op.extractLsb' 3 5 := by
  simp [slotWord, ext_hi]

@[simp] theorem fld_ty : BitVec.extractLsb' 24 3 (slotWord op g o) = op.extractLsb' 0 3 := by
  simp [slotWord, ext_hi]

@[simp] theorem fld_ta : BitVec.extractLsb' 27 2 (slotWord op g o) = op.extractLsb' 3 2 := by
  simp [slotWord, ext_hi]

@[simp] theorem get_low {i : Nat} (h : i < 20) : (slotWord op g o).getLsbD i = o.getLsbD i := by
  unfold slotWord
  rw [get_append, if_pos h]

@[simp] theorem fld_low {lo n : Nat} (h : lo + n ≤ 20) :
    BitVec.extractLsb' lo n (slotWord op g o) = o.extractLsb' lo n := by
  unfold slotWord
  rw [ext_lo _ _ h]

@[simp] theorem fld_flag : BitVec.extractLsb' 20 3 (slotWord op g o) = g.flag := by simp [slotWord, ext_lo, ext_hi]

@[simp] theorem get_neg : (slotWord op g o).getLsbD 23 = g.neg := by
  unfold slotWord
  rw [get_append, get_append, get_append]
  simp

@[simp] theorem guardOf_slotWord : guardOf (slotWord op g o) = g := by simp only [guardOf, fld, fld_flag, get_neg]

end

/-! ### Codes -/

@[simp] theorem IntTy.of_code (t : IntTy) : IntTy.ofCode t.code = t := by cases t <;> rfl
@[simp] theorem FpTy.of_code (t : FpTy) : FpTy.ofCode? t.code = some t := by cases t <;> rfl
@[simp] theorem FpTy.of_zero : FpTy.ofCode? 0#3 = some .f32 := rfl
@[simp] theorem MatTy.of_code (t : MatTy) : MatTy.ofCode? t.code = some t := by cases t <;> rfl
@[simp] theorem CvTy.of_code (t : CvTy) : CvTy.ofCode t.code = t := by
  cases t with
  | fp f => cases f <;> rfl
  | s32 => rfl
  | s8 => rfl
@[simp] theorem ScvTy.of_code (t : ScvTy) : ScvTy.ofCode? t.code = some t := by cases t <;> rfl
@[simp] theorem AtomTy.of_code (t : AtomTy) : AtomTy.ofCode t.code = t := by cases t <;> rfl
@[simp] theorem AtomOp.of_code (t : AtomOp) : AtomOp.ofCode t.code = t := by cases t <;> rfl
@[simp] theorem Scope.of_code (t : Scope) : Scope.ofCode t.code = t := by cases t <;> rfl
@[simp] theorem Ord.of_code (t : Ord) : Ord.ofCode? t.code = some t := by
  cases t with
  | rel s => cases s <;> rfl
  | relaxed => rfl
  | acq => rfl
@[simp] theorem Rm.of_code (t : Rm) : Rm.ofCode? t.code = some t := by cases t <;> rfl
@[simp] theorem Cc.of_code (t : Cc) : Cc.ofCode? t.code = some t := by cases t <;> rfl
@[simp] theorem Sfu.of_code (t : Sfu) : Sfu.ofCode? t.code = some t := by cases t <;> rfl
@[simp] theorem VFile.of_bit (f : VFile) : VFile.ofBit (f.bit.getLsbD 0) = f := by cases f <;> rfl

end Sys2Proof
end

