-- ==== Sys2Proof/Laws/PerInstr.lean ====
section
/-! SUPPORT. The per-instruction family Roundtrip: a well-formed slot instruction is what the decoder reads from its encoded
word; an event has no word. -/
set_option linter.unusedSimpArgs false
namespace Sys2Proof.Laws
set_option Elab.async false

/-- The decoder reads a well-formed instruction back from the slot and word that the encoder gives it. -/
def Roundtrip.Statement (i : Instr) : Prop :=
  i.WellFormed → ∀ sl w, encode i = some (sl, w) → decodeSlot sl w = .ok i

/-- What a proof of Roundtrip.Statement comes down to: the map of the slot lists the opcode and gives the fields back. -/
theorem Roundtrip.of_fields {i : Instr} {sl : Slot} {w : Word32} (he : encode i = some (sl, w))
    (hl : i.WellFormed → opListed sl (opOf w) = true) (hd : i.WellFormed → decodeFields sl w = .ok i) :
    Roundtrip.Statement i := by
  intro wf sl' w' h
  rw [he] at h
  cases h
  simp only [decodeSlot, hl wf, hd wf, if_true]
  rw [show i.flaw = none from wf]

/-- An event has no word. -/
theorem Roundtrip.of_event {i : Instr} (he : encode i = none) : Roundtrip.Statement i := by
  intro _ sl w h
  rw [he] at h
  cases h


theorem Roundtrip.xim (tgt : BitVec 3) (imm : BitVec 20) : Roundtrip.Statement (.xim tgt imm) := by
  refine Roundtrip.of_fields (w := slotWord 0x01 ⟨false, tgt⟩ imm) rfl (fun _ => ?_) (fun _ => ?_)
  · rw [opOf_slotWord]; rfl
  · simp [-BitVec.getLsbD_eq_getElem, decodeFields, decodeB, zeros]

theorem Roundtrip.bpre (g : Guard) (bd : BitVec 3) (off : BitVec 17) : Roundtrip.Statement (.bpre g bd off) := by
  refine Roundtrip.of_fields rfl (fun wf => ?_) (fun wf => ?_)
  · rw [opOf_slotWord]; rfl
  · simp [decodeFields, decodeB, zeros, Sys2Proof.code, tyCode, -BitVec.getLsbD_eq_getElem]

theorem Roundtrip.bpres (g : Guard) (bd : BitVec 3) (sa : BitVec 6) : Roundtrip.Statement (.bpres g bd sa) := by
  refine Roundtrip.of_fields rfl (fun wf => ?_) (fun wf => ?_)
  · rw [opOf_slotWord]; rfl
  · simp [decodeFields, decodeB, zeros, Sys2Proof.code, tyCode, -BitVec.getLsbD_eq_getElem]

theorem Roundtrip.br (g : Guard) (bt : BitVec 3) : Roundtrip.Statement (.br g bt) := by
  refine Roundtrip.of_fields rfl (fun wf => ?_) (fun wf => ?_)
  · rw [opOf_slotWord]; rfl
  · simp [decodeFields, decodeB, zeros, Sys2Proof.code, tyCode, -BitVec.getLsbD_eq_getElem]

theorem Roundtrip.call (g : Guard) (bt : BitVec 3) : Roundtrip.Statement (.call g bt) := by
  refine Roundtrip.of_fields rfl (fun wf => ?_) (fun wf => ?_)
  · rw [opOf_slotWord]; rfl
  · simp [decodeFields, decodeB, zeros, Sys2Proof.code, tyCode, -BitVec.getLsbD_eq_getElem]

theorem Roundtrip.ret (g : Guard) : Roundtrip.Statement (.ret g) := by
  refine Roundtrip.of_fields rfl (fun wf => ?_) (fun wf => ?_)
  · rw [opOf_slotWord]; rfl
  · simp [decodeFields, decodeB, zeros, Sys2Proof.code, tyCode, -BitVec.getLsbD_eq_getElem]

theorem Roundtrip.loop (g : Guard) (len : BitVec 6) (cnt : BitVec 13) : Roundtrip.Statement (.loop g len cnt) := by
  refine Roundtrip.of_fields rfl (fun wf => ?_) (fun wf => ?_)
  · rw [opOf_slotWord]; rfl
  · simp [decodeFields, decodeB, zeros, Sys2Proof.code, tyCode, -BitVec.getLsbD_eq_getElem]

theorem Roundtrip.loopReg (g : Guard) (len : BitVec 6) (sa : BitVec 6) : Roundtrip.Statement (.loopReg g len sa) := by
  refine Roundtrip.of_fields rfl (fun wf => ?_) (fun wf => ?_)
  · rw [opOf_slotWord]; rfl
  · simp [decodeFields, decodeB, zeros, Sys2Proof.code, tyCode, -BitVec.getLsbD_eq_getElem]

theorem Roundtrip.repm (g : Guard) (n : BitVec 19) : Roundtrip.Statement (.repm g n) := by
  refine Roundtrip.of_fields rfl (fun wf => ?_) (fun wf => ?_)
  · rw [opOf_slotWord]; rfl
  · simp [decodeFields, decodeB, zeros, Sys2Proof.code, tyCode, -BitVec.getLsbD_eq_getElem]

theorem Roundtrip.repmReg (g : Guard) (sa : BitVec 6) : Roundtrip.Statement (.repmReg g sa) := by
  refine Roundtrip.of_fields rfl (fun wf => ?_) (fun wf => ?_)
  · rw [opOf_slotWord]; rfl
  · simp [decodeFields, decodeB, zeros, Sys2Proof.code, tyCode, -BitVec.getLsbD_eq_getElem]

theorem Roundtrip.wait (g : Guard) (sem : BitVec 8) (n : BitVec 8) (acq : Bool) : Roundtrip.Statement (.wait g sem n acq) := by
  refine Roundtrip.of_fields rfl (fun wf => ?_) (fun wf => ?_)
  · rw [opOf_slotWord]; rfl
  · simp [decodeFields, decodeB, zeros, Sys2Proof.code, tyCode, -BitVec.getLsbD_eq_getElem]

theorem Roundtrip.waitd (g : Guard) (sem : BitVec 8) (n : BitVec 8) (acq : Bool) : Roundtrip.Statement (.waitd g sem n acq) := by
  refine Roundtrip.of_fields rfl (fun wf => ?_) (fun wf => ?_)
  · rw [opOf_slotWord]; rfl
  · simp [decodeFields, decodeB, zeros, Sys2Proof.code, tyCode, -BitVec.getLsbD_eq_getElem]

theorem Roundtrip.sig (g : Guard) (sem : BitVec 8) (inc : BitVec 8) (sc : Scope) (rel : Bool) : Roundtrip.Statement (.sig g sem inc sc rel) := by
  refine Roundtrip.of_fields rfl (fun wf => ?_) (fun wf => ?_)
  · rw [opOf_slotWord]; rfl
  · simp [decodeFields, decodeB, zeros, Sys2Proof.code, tyCode, -BitVec.getLsbD_eq_getElem]

theorem Roundtrip.semset (g : Guard) (sem : BitVec 8) (v : BitVec 12) : Roundtrip.Statement (.semset g sem v) := by
  refine Roundtrip.of_fields rfl (fun wf => ?_) (fun wf => ?_)
  · rw [opOf_slotWord]; rfl
  · simp [decodeFields, decodeB, zeros, Sys2Proof.code, tyCode, -BitVec.getLsbD_eq_getElem]

theorem Roundtrip.evwait (g : Guard) (mask : BitVec 16) : Roundtrip.Statement (.evwait g mask) := by
  refine Roundtrip.of_fields rfl (fun wf => ?_) (fun wf => ?_)
  · rw [opOf_slotWord]; rfl
  · simp [decodeFields, decodeB, zeros, Sys2Proof.code, tyCode, -BitVec.getLsbD_eq_getElem]

theorem Roundtrip.evclr (g : Guard) (mask : BitVec 16) : Roundtrip.Statement (.evclr g mask) := by
  refine Roundtrip.of_fields rfl (fun wf => ?_) (fun wf => ?_)
  · rw [opOf_slotWord]; rfl
  · simp [decodeFields, decodeB, zeros, Sys2Proof.code, tyCode, -BitVec.getLsbD_eq_getElem]

theorem Roundtrip.fence (g : Guard) (sc : Scope) : Roundtrip.Statement (.fence g sc) := by
  refine Roundtrip.of_fields rfl (fun wf => ?_) (fun wf => ?_)
  · rw [opOf_slotWord]; rfl
  · simp [decodeFields, decodeB, zeros, Sys2Proof.code, tyCode, -BitVec.getLsbD_eq_getElem]

theorem Roundtrip.fni (g : Guard) (ft : BitVec 3) (sc : Scope) : Roundtrip.Statement (.fni g ft sc) := by
  refine Roundtrip.of_fields rfl (fun wf => ?_) (fun wf => ?_)
  · rw [opOf_slotWord]; rfl
  · simp [decodeFields, decodeB, zeros, Sys2Proof.code, tyCode, -BitVec.getLsbD_eq_getElem]

theorem Roundtrip.fnw (g : Guard) (ft : BitVec 3) : Roundtrip.Statement (.fnw g ft) := by
  refine Roundtrip.of_fields rfl (fun wf => ?_) (fun wf => ?_)
  · rw [opOf_slotWord]; rfl
  · simp [decodeFields, decodeB, zeros, Sys2Proof.code, tyCode, -BitVec.getLsbD_eq_getElem]

theorem Roundtrip.trap (g : Guard) (code : BitVec 16) : Roundtrip.Statement (.trap g code) := by
  refine Roundtrip.of_fields rfl (fun wf => ?_) (fun wf => ?_)
  · rw [opOf_slotWord]; rfl
  · simp [decodeFields, decodeB, zeros, Sys2Proof.code, tyCode, -BitVec.getLsbD_eq_getElem]

theorem Roundtrip.tret (g : Guard) (sv : BitVec 6) : Roundtrip.Statement (.tret g sv) := by
  refine Roundtrip.of_fields rfl (fun wf => ?_) (fun wf => ?_)
  · rw [opOf_slotWord]; rfl
  · simp [decodeFields, decodeB, zeros, Sys2Proof.code, tyCode, -BitVec.getLsbD_eq_getElem]

theorem Roundtrip.sys (g : Guard) (code : BitVec 16) : Roundtrip.Statement (.sys g code) := by
  refine Roundtrip.of_fields rfl (fun wf => ?_) (fun wf => ?_)
  · rw [opOf_slotWord]; rfl
  · simp [decodeFields, decodeB, zeros, Sys2Proof.code, tyCode, -BitVec.getLsbD_eq_getElem]

theorem Roundtrip.yield (g : Guard) : Roundtrip.Statement (.yield g) := by
  refine Roundtrip.of_fields rfl (fun wf => ?_) (fun wf => ?_)
  · rw [opOf_slotWord]; rfl
  · simp [decodeFields, decodeB, zeros, Sys2Proof.code, tyCode, -BitVec.getLsbD_eq_getElem]

theorem Roundtrip.exit (g : Guard) : Roundtrip.Statement (.exit g) := by
  refine Roundtrip.of_fields rfl (fun wf => ?_) (fun wf => ?_)
  · rw [opOf_slotWord]; rfl
  · simp [decodeFields, decodeB, zeros, Sys2Proof.code, tyCode, -BitVec.getLsbD_eq_getElem]

theorem Roundtrip.add (g : Guard) (sd : BitVec 6) (sa : BitVec 6) (sb : BitVec 6) : Roundtrip.Statement (.add g sd sa sb) := by
  refine Roundtrip.of_fields rfl (fun wf => ?_) (fun wf => ?_)
  · rw [opOf_slotWord]; rfl
  · simp [decodeFields, decodeS, fmtSR, fmtSR1, fmtSI, zeros, Sys2Proof.code, tyCode, -BitVec.getLsbD_eq_getElem]

theorem Roundtrip.sub (g : Guard) (sd : BitVec 6) (sa : BitVec 6) (sb : BitVec 6) : Roundtrip.Statement (.sub g sd sa sb) := by
  refine Roundtrip.of_fields rfl (fun wf => ?_) (fun wf => ?_)
  · rw [opOf_slotWord]; rfl
  · simp [decodeFields, decodeS, fmtSR, fmtSR1, fmtSI, zeros, Sys2Proof.code, tyCode, -BitVec.getLsbD_eq_getElem]

theorem Roundtrip.mul (g : Guard) (sd : BitVec 6) (sa : BitVec 6) (sb : BitVec 6) : Roundtrip.Statement (.mul g sd sa sb) := by
  refine Roundtrip.of_fields rfl (fun wf => ?_) (fun wf => ?_)
  · rw [opOf_slotWord]; rfl
  · simp [decodeFields, decodeS, fmtSR, fmtSR1, fmtSI, zeros, Sys2Proof.code, tyCode, -BitVec.getLsbD_eq_getElem]

theorem Roundtrip.mulh (g : Guard) (sd : BitVec 6) (sa : BitVec 6) (sb : BitVec 6) : Roundtrip.Statement (.mulh g sd sa sb) := by
  refine Roundtrip.of_fields rfl (fun wf => ?_) (fun wf => ?_)
  · rw [opOf_slotWord]; rfl
  · simp [decodeFields, decodeS, fmtSR, fmtSR1, fmtSI, zeros, Sys2Proof.code, tyCode, -BitVec.getLsbD_eq_getElem]

theorem Roundtrip.mulhz (g : Guard) (sd : BitVec 6) (sa : BitVec 6) (sb : BitVec 6) : Roundtrip.Statement (.mulhz g sd sa sb) := by
  refine Roundtrip.of_fields rfl (fun wf => ?_) (fun wf => ?_)
  · rw [opOf_slotWord]; rfl
  · simp [decodeFields, decodeS, fmtSR, fmtSR1, fmtSI, zeros, Sys2Proof.code, tyCode, -BitVec.getLsbD_eq_getElem]

theorem Roundtrip.div (g : Guard) (sd : BitVec 6) (sa : BitVec 6) (sb : BitVec 6) : Roundtrip.Statement (.div g sd sa sb) := by
  refine Roundtrip.of_fields rfl (fun wf => ?_) (fun wf => ?_)
  · rw [opOf_slotWord]; rfl
  · simp [decodeFields, decodeS, fmtSR, fmtSR1, fmtSI, zeros, Sys2Proof.code, tyCode, -BitVec.getLsbD_eq_getElem]

theorem Roundtrip.divz (g : Guard) (sd : BitVec 6) (sa : BitVec 6) (sb : BitVec 6) : Roundtrip.Statement (.divz g sd sa sb) := by
  refine Roundtrip.of_fields rfl (fun wf => ?_) (fun wf => ?_)
  · rw [opOf_slotWord]; rfl
  · simp [decodeFields, decodeS, fmtSR, fmtSR1, fmtSI, zeros, Sys2Proof.code, tyCode, -BitVec.getLsbD_eq_getElem]

theorem Roundtrip.rem (g : Guard) (sd : BitVec 6) (sa : BitVec 6) (sb : BitVec 6) : Roundtrip.Statement (.rem g sd sa sb) := by
  refine Roundtrip.of_fields rfl (fun wf => ?_) (fun wf => ?_)
  · rw [opOf_slotWord]; rfl
  · simp [decodeFields, decodeS, fmtSR, fmtSR1, fmtSI, zeros, Sys2Proof.code, tyCode, -BitVec.getLsbD_eq_getElem]

theorem Roundtrip.remz (g : Guard) (sd : BitVec 6) (sa : BitVec 6) (sb : BitVec 6) : Roundtrip.Statement (.remz g sd sa sb) := by
  refine Roundtrip.of_fields rfl (fun wf => ?_) (fun wf => ?_)
  · rw [opOf_slotWord]; rfl
  · simp [decodeFields, decodeS, fmtSR, fmtSR1, fmtSI, zeros, Sys2Proof.code, tyCode, -BitVec.getLsbD_eq_getElem]

theorem Roundtrip.and (g : Guard) (sd : BitVec 6) (sa : BitVec 6) (sb : BitVec 6) : Roundtrip.Statement (.and g sd sa sb) := by
  refine Roundtrip.of_fields rfl (fun wf => ?_) (fun wf => ?_)
  · rw [opOf_slotWord]; rfl
  · simp [decodeFields, decodeS, fmtSR, fmtSR1, fmtSI, zeros, Sys2Proof.code, tyCode, -BitVec.getLsbD_eq_getElem]

theorem Roundtrip.or (g : Guard) (sd : BitVec 6) (sa : BitVec 6) (sb : BitVec 6) : Roundtrip.Statement (.or g sd sa sb) := by
  refine Roundtrip.of_fields rfl (fun wf => ?_) (fun wf => ?_)
  · rw [opOf_slotWord]; rfl
  · simp [decodeFields, decodeS, fmtSR, fmtSR1, fmtSI, zeros, Sys2Proof.code, tyCode, -BitVec.getLsbD_eq_getElem]

theorem Roundtrip.xor (g : Guard) (sd : BitVec 6) (sa : BitVec 6) (sb : BitVec 6) : Roundtrip.Statement (.xor g sd sa sb) := by
  refine Roundtrip.of_fields rfl (fun wf => ?_) (fun wf => ?_)
  · rw [opOf_slotWord]; rfl
  · simp [decodeFields, decodeS, fmtSR, fmtSR1, fmtSI, zeros, Sys2Proof.code, tyCode, -BitVec.getLsbD_eq_getElem]

theorem Roundtrip.shl (g : Guard) (sd : BitVec 6) (sa : BitVec 6) (sb : BitVec 6) : Roundtrip.Statement (.shl g sd sa sb) := by
  refine Roundtrip.of_fields rfl (fun wf => ?_) (fun wf => ?_)
  · rw [opOf_slotWord]; rfl
  · simp [decodeFields, decodeS, fmtSR, fmtSR1, fmtSI, zeros, Sys2Proof.code, tyCode, -BitVec.getLsbD_eq_getElem]

theorem Roundtrip.shr (g : Guard) (sd : BitVec 6) (sa : BitVec 6) (sb : BitVec 6) : Roundtrip.Statement (.shr g sd sa sb) := by
  refine Roundtrip.of_fields rfl (fun wf => ?_) (fun wf => ?_)
  · rw [opOf_slotWord]; rfl
  · simp [decodeFields, decodeS, fmtSR, fmtSR1, fmtSI, zeros, Sys2Proof.code, tyCode, -BitVec.getLsbD_eq_getElem]

theorem Roundtrip.sra (g : Guard) (sd : BitVec 6) (sa : BitVec 6) (sb : BitVec 6) : Roundtrip.Statement (.sra g sd sa sb) := by
  refine Roundtrip.of_fields rfl (fun wf => ?_) (fun wf => ?_)
  · rw [opOf_slotWord]; rfl
  · simp [decodeFields, decodeS, fmtSR, fmtSR1, fmtSI, zeros, Sys2Proof.code, tyCode, -BitVec.getLsbD_eq_getElem]

theorem Roundtrip.min (g : Guard) (sd : BitVec 6) (sa : BitVec 6) (sb : BitVec 6) : Roundtrip.Statement (.min g sd sa sb) := by
  refine Roundtrip.of_fields rfl (fun wf => ?_) (fun wf => ?_)
  · rw [opOf_slotWord]; rfl
  · simp [decodeFields, decodeS, fmtSR, fmtSR1, fmtSI, zeros, Sys2Proof.code, tyCode, -BitVec.getLsbD_eq_getElem]

theorem Roundtrip.max (g : Guard) (sd : BitVec 6) (sa : BitVec 6) (sb : BitVec 6) : Roundtrip.Statement (.max g sd sa sb) := by
  refine Roundtrip.of_fields rfl (fun wf => ?_) (fun wf => ?_)
  · rw [opOf_slotWord]; rfl
  · simp [decodeFields, decodeS, fmtSR, fmtSR1, fmtSI, zeros, Sys2Proof.code, tyCode, -BitVec.getLsbD_eq_getElem]

theorem Roundtrip.minz (g : Guard) (sd : BitVec 6) (sa : BitVec 6) (sb : BitVec 6) : Roundtrip.Statement (.minz g sd sa sb) := by
  refine Roundtrip.of_fields rfl (fun wf => ?_) (fun wf => ?_)
  · rw [opOf_slotWord]; rfl
  · simp [decodeFields, decodeS, fmtSR, fmtSR1, fmtSI, zeros, Sys2Proof.code, tyCode, -BitVec.getLsbD_eq_getElem]

theorem Roundtrip.maxz (g : Guard) (sd : BitVec 6) (sa : BitVec 6) (sb : BitVec 6) : Roundtrip.Statement (.maxz g sd sa sb) := by
  refine Roundtrip.of_fields rfl (fun wf => ?_) (fun wf => ?_)
  · rw [opOf_slotWord]; rfl
  · simp [decodeFields, decodeS, fmtSR, fmtSR1, fmtSI, zeros, Sys2Proof.code, tyCode, -BitVec.getLsbD_eq_getElem]

theorem Roundtrip.addi (g : Guard) (sd : BitVec 6) (sa : BitVec 6) (imm : BitVec 8) : Roundtrip.Statement (.addi g sd sa imm) := by
  refine Roundtrip.of_fields rfl (fun wf => ?_) (fun wf => ?_)
  · rw [opOf_slotWord]; rfl
  · simp [decodeFields, decodeS, fmtSR, fmtSR1, fmtSI, zeros, Sys2Proof.code, tyCode, -BitVec.getLsbD_eq_getElem]

theorem Roundtrip.andi (g : Guard) (sd : BitVec 6) (sa : BitVec 6) (imm : BitVec 8) : Roundtrip.Statement (.andi g sd sa imm) := by
  refine Roundtrip.of_fields rfl (fun wf => ?_) (fun wf => ?_)
  · rw [opOf_slotWord]; rfl
  · simp [decodeFields, decodeS, fmtSR, fmtSR1, fmtSI, zeros, Sys2Proof.code, tyCode, -BitVec.getLsbD_eq_getElem]

theorem Roundtrip.ori (g : Guard) (sd : BitVec 6) (sa : BitVec 6) (imm : BitVec 8) : Roundtrip.Statement (.ori g sd sa imm) := by
  refine Roundtrip.of_fields rfl (fun wf => ?_) (fun wf => ?_)
  · rw [opOf_slotWord]; rfl
  · simp [decodeFields, decodeS, fmtSR, fmtSR1, fmtSI, zeros, Sys2Proof.code, tyCode, -BitVec.getLsbD_eq_getElem]

theorem Roundtrip.xori (g : Guard) (sd : BitVec 6) (sa : BitVec 6) (imm : BitVec 8) : Roundtrip.Statement (.xori g sd sa imm) := by
  refine Roundtrip.of_fields rfl (fun wf => ?_) (fun wf => ?_)
  · rw [opOf_slotWord]; rfl
  · simp [decodeFields, decodeS, fmtSR, fmtSR1, fmtSI, zeros, Sys2Proof.code, tyCode, -BitVec.getLsbD_eq_getElem]

theorem Roundtrip.shli (g : Guard) (sd : BitVec 6) (sa : BitVec 6) (imm : BitVec 8) : Roundtrip.Statement (.shli g sd sa imm) := by
  refine Roundtrip.of_fields rfl (fun wf => ?_) (fun wf => ?_)
  · rw [opOf_slotWord]; rfl
  · simp [decodeFields, decodeS, fmtSR, fmtSR1, fmtSI, zeros, Sys2Proof.code, tyCode, -BitVec.getLsbD_eq_getElem]

theorem Roundtrip.shri (g : Guard) (sd : BitVec 6) (sa : BitVec 6) (imm : BitVec 8) : Roundtrip.Statement (.shri g sd sa imm) := by
  refine Roundtrip.of_fields rfl (fun wf => ?_) (fun wf => ?_)
  · rw [opOf_slotWord]; rfl
  · simp [decodeFields, decodeS, fmtSR, fmtSR1, fmtSI, zeros, Sys2Proof.code, tyCode, -BitVec.getLsbD_eq_getElem]

theorem Roundtrip.srai (g : Guard) (sd : BitVec 6) (sa : BitVec 6) (imm : BitVec 8) : Roundtrip.Statement (.srai g sd sa imm) := by
  refine Roundtrip.of_fields rfl (fun wf => ?_) (fun wf => ?_)
  · rw [opOf_slotWord]; rfl
  · simp [decodeFields, decodeS, fmtSR, fmtSR1, fmtSI, zeros, Sys2Proof.code, tyCode, -BitVec.getLsbD_eq_getElem]

theorem Roundtrip.cmp (g : Guard) (fd : BitVec 3) (cc : Cc) (sa : BitVec 6) (sb : BitVec 6) : Roundtrip.Statement (.cmp g fd cc sa sb) := by
  refine Roundtrip.of_fields rfl (fun wf => ?_) (fun wf => ?_)
  · rw [opOf_slotWord]; rfl
  · simp [decodeFields, decodeS, fmtSR, fmtSR1, fmtSI, zeros, Sys2Proof.code, tyCode, -BitVec.getLsbD_eq_getElem]

theorem Roundtrip.cmpi (g : Guard) (fd : BitVec 3) (cc : Cc) (sa : BitVec 6) (imm : BitVec 7) : Roundtrip.Statement (.cmpi g fd cc sa imm) := by
  refine Roundtrip.of_fields rfl (fun wf => ?_) (fun wf => ?_)
  · rw [opOf_slotWord]; rfl
  · simp [decodeFields, decodeS, fmtSR, fmtSR1, fmtSI, zeros, Sys2Proof.code, tyCode, -BitVec.getLsbD_eq_getElem]

theorem Roundtrip.flop (g : Guard) (fd : BitVec 3) (fa : BitVec 3) (fb : BitVec 3) (tt : BitVec 4) : Roundtrip.Statement (.flop g fd fa fb tt) := by
  refine Roundtrip.of_fields rfl (fun wf => ?_) (fun wf => ?_)
  · rw [opOf_slotWord]; rfl
  · simp [decodeFields, decodeS, fmtSR, fmtSR1, fmtSI, zeros, Sys2Proof.code, tyCode, -BitVec.getLsbD_eq_getElem]

theorem Roundtrip.sel (g : Guard) (sd : BitVec 6) (sa : BitVec 6) (sb : BitVec 5) (fc : BitVec 3) : Roundtrip.Statement (.sel g sd sa sb fc) := by
  refine Roundtrip.of_fields rfl (fun wf => ?_) (fun wf => ?_)
  · rw [opOf_slotWord]; rfl
  · simp [decodeFields, decodeS, fmtSR, fmtSR1, fmtSI, zeros, Sys2Proof.code, tyCode, -BitVec.getLsbD_eq_getElem]

theorem Roundtrip.movi (g : Guard) (sd : BitVec 6) (imm : BitVec 14) : Roundtrip.Statement (.movi g sd imm) := by
  refine Roundtrip.of_fields rfl (fun wf => ?_) (fun wf => ?_)
  · rw [opOf_slotWord]; rfl
  · simp [decodeFields, decodeS, fmtSR, fmtSR1, fmtSI, zeros, Sys2Proof.code, tyCode, -BitVec.getLsbD_eq_getElem]

theorem Roundtrip.movhi (g : Guard) (sd : BitVec 6) (imm : BitVec 14) : Roundtrip.Statement (.movhi g sd imm) := by
  refine Roundtrip.of_fields rfl (fun wf => ?_) (fun wf => ?_)
  · rw [opOf_slotWord]; rfl
  · simp [decodeFields, decodeS, fmtSR, fmtSR1, fmtSI, zeros, Sys2Proof.code, tyCode, -BitVec.getLsbD_eq_getElem]

theorem Roundtrip.clz (g : Guard) (sd : BitVec 6) (sa : BitVec 6) : Roundtrip.Statement (.clz g sd sa) := by
  refine Roundtrip.of_fields rfl (fun wf => ?_) (fun wf => ?_)
  · rw [opOf_slotWord]; rfl
  · simp [decodeFields, decodeS, fmtSR, fmtSR1, fmtSI, zeros, Sys2Proof.code, tyCode, -BitVec.getLsbD_eq_getElem]

theorem Roundtrip.popc (g : Guard) (sd : BitVec 6) (sa : BitVec 6) : Roundtrip.Statement (.popc g sd sa) := by
  refine Roundtrip.of_fields rfl (fun wf => ?_) (fun wf => ?_)
  · rw [opOf_slotWord]; rfl
  · simp [decodeFields, decodeS, fmtSR, fmtSR1, fmtSI, zeros, Sys2Proof.code, tyCode, -BitVec.getLsbD_eq_getElem]

theorem Roundtrip.bfx (g : Guard) (sd : BitVec 6) (sa : BitVec 6) (sb : BitVec 6) : Roundtrip.Statement (.bfx g sd sa sb) := by
  refine Roundtrip.of_fields rfl (fun wf => ?_) (fun wf => ?_)
  · rw [opOf_slotWord]; rfl
  · simp [decodeFields, decodeS, fmtSR, fmtSR1, fmtSI, zeros, Sys2Proof.code, tyCode, -BitVec.getLsbD_eq_getElem]

theorem Roundtrip.bfi (g : Guard) (sd : BitVec 6) (sa : BitVec 6) (sb : BitVec 6) : Roundtrip.Statement (.bfi g sd sa sb) := by
  refine Roundtrip.of_fields rfl (fun wf => ?_) (fun wf => ?_)
  · rw [opOf_slotWord]; rfl
  · simp [decodeFields, decodeS, fmtSR, fmtSR1, fmtSI, zeros, Sys2Proof.code, tyCode, -BitVec.getLsbD_eq_getElem]

theorem Roundtrip.fadd (g : Guard) (sd : BitVec 6) (sa : BitVec 6) (sb : BitVec 6) : Roundtrip.Statement (.fadd g sd sa sb) := by
  refine Roundtrip.of_fields rfl (fun wf => ?_) (fun wf => ?_)
  · rw [opOf_slotWord]; rfl
  · simp [decodeFields, decodeS, fmtSR, fmtSR1, fmtSI, zeros, Sys2Proof.code, tyCode, -BitVec.getLsbD_eq_getElem]

theorem Roundtrip.fsub (g : Guard) (sd : BitVec 6) (sa : BitVec 6) (sb : BitVec 6) : Roundtrip.Statement (.fsub g sd sa sb) := by
  refine Roundtrip.of_fields rfl (fun wf => ?_) (fun wf => ?_)
  · rw [opOf_slotWord]; rfl
  · simp [decodeFields, decodeS, fmtSR, fmtSR1, fmtSI, zeros, Sys2Proof.code, tyCode, -BitVec.getLsbD_eq_getElem]

theorem Roundtrip.fmul (g : Guard) (sd : BitVec 6) (sa : BitVec 6) (sb : BitVec 6) : Roundtrip.Statement (.fmul g sd sa sb) := by
  refine Roundtrip.of_fields rfl (fun wf => ?_) (fun wf => ?_)
  · rw [opOf_slotWord]; rfl
  · simp [decodeFields, decodeS, fmtSR, fmtSR1, fmtSI, zeros, Sys2Proof.code, tyCode, -BitVec.getLsbD_eq_getElem]

theorem Roundtrip.fma (g : Guard) (sd : BitVec 5) (sa : BitVec 5) (sb : BitVec 5) (sc : BitVec 5) : Roundtrip.Statement (.fma g sd sa sb sc) := by
  refine Roundtrip.of_fields rfl (fun wf => ?_) (fun wf => ?_)
  · rw [opOf_slotWord]; rfl
  · simp [decodeFields, decodeS, fmtSR, fmtSR1, fmtSI, zeros, Sys2Proof.code, tyCode, -BitVec.getLsbD_eq_getElem]

theorem Roundtrip.fdiv (g : Guard) (sd : BitVec 6) (sa : BitVec 6) (sb : BitVec 6) : Roundtrip.Statement (.fdiv g sd sa sb) := by
  refine Roundtrip.of_fields rfl (fun wf => ?_) (fun wf => ?_)
  · rw [opOf_slotWord]; rfl
  · simp [decodeFields, decodeS, fmtSR, fmtSR1, fmtSI, zeros, Sys2Proof.code, tyCode, -BitVec.getLsbD_eq_getElem]

theorem Roundtrip.fsqrt (g : Guard) (sd : BitVec 6) (sa : BitVec 6) : Roundtrip.Statement (.fsqrt g sd sa) := by
  refine Roundtrip.of_fields rfl (fun wf => ?_) (fun wf => ?_)
  · rw [opOf_slotWord]; rfl
  · simp [decodeFields, decodeS, fmtSR, fmtSR1, fmtSI, zeros, Sys2Proof.code, tyCode, -BitVec.getLsbD_eq_getElem]

theorem Roundtrip.fcmp (g : Guard) (fd : BitVec 3) (cc : Cc) (sa : BitVec 6) (sb : BitVec 6) : Roundtrip.Statement (.fcmp g fd cc sa sb) := by
  refine Roundtrip.of_fields rfl (fun wf => ?_) (fun wf => ?_)
  · rw [opOf_slotWord]; rfl
  · simp [decodeFields, decodeS, fmtSR, fmtSR1, fmtSI, zeros, Sys2Proof.code, tyCode, -BitVec.getLsbD_eq_getElem]

theorem Roundtrip.fcvt (g : Guard) (sd : BitVec 6) (sa : BitVec 6) (tfrom : ScvTy) (tto : ScvTy) (rm : Rm) : Roundtrip.Statement (.fcvt g sd sa tfrom tto rm) := by
  refine Roundtrip.of_fields rfl (fun wf => ?_) (fun wf => ?_)
  · rw [opOf_slotWord]; rfl
  · simp [decodeFields, decodeS, fmtSR, fmtSR1, fmtSI, zeros, Sys2Proof.code, tyCode, -BitVec.getLsbD_eq_getElem]

theorem Roundtrip.movsa (g : Guard) (ad : BitVec 5) (sa : BitVec 6) : Roundtrip.Statement (.movsa g ad sa) := by
  refine Roundtrip.of_fields rfl (fun wf => ?_) (fun wf => ?_)
  · rw [opOf_slotWord]; rfl
  · simp [decodeFields, decodeS, fmtSR, fmtSR1, fmtSI, zeros, Sys2Proof.code, tyCode, -BitVec.getLsbD_eq_getElem]

theorem Roundtrip.movas (g : Guard) (sd : BitVec 6) (aa : BitVec 5) : Roundtrip.Statement (.movas g sd aa) := by
  refine Roundtrip.of_fields rfl (fun wf => ?_) (fun wf => ?_)
  · rw [opOf_slotWord]; rfl
  · simp [decodeFields, decodeS, fmtSR, fmtSR1, fmtSI, zeros, Sys2Proof.code, tyCode, -BitVec.getLsbD_eq_getElem]

theorem Roundtrip.movsv (g : Guard) (vf : VFile) (vd : BitVec 5) (sa : BitVec 6) : Roundtrip.Statement (.movsv g vf vd sa) := by
  refine Roundtrip.of_fields rfl (fun wf => ?_) (fun wf => ?_)
  · rw [opOf_slotWord]; rfl
  · simp [decodeFields, decodeS, fmtSR, fmtSR1, fmtSI, zeros, Sys2Proof.code, tyCode, -BitVec.getLsbD_eq_getElem]

theorem Roundtrip.csrr (g : Guard) (sd : BitVec 6) (n : BitVec 8) : Roundtrip.Statement (.csrr g sd n) := by
  refine Roundtrip.of_fields rfl (fun wf => ?_) (fun wf => ?_)
  · rw [opOf_slotWord]; rfl
  · simp [decodeFields, decodeS, fmtSR, fmtSR1, fmtSI, zeros, Sys2Proof.code, tyCode, -BitVec.getLsbD_eq_getElem]

theorem Roundtrip.csrw (g : Guard) (sa : BitVec 6) (n : BitVec 8) : Roundtrip.Statement (.csrw g sa n) := by
  refine Roundtrip.of_fields rfl (fun wf => ?_) (fun wf => ?_)
  · rw [opOf_slotWord]; rfl
  · simp [show (Instr.csrw g sa n).flaw = none from wf, decodeFields, decodeS, fmtSR, fmtSR1, fmtSI, zeros, Sys2Proof.code, tyCode, -BitVec.getLsbD_eq_getElem]

theorem Roundtrip.semrd (g : Guard) (sd : BitVec 6) (sem : BitVec 8) : Roundtrip.Statement (.semrd g sd sem) := by
  refine Roundtrip.of_fields rfl (fun wf => ?_) (fun wf => ?_)
  · rw [opOf_slotWord]; rfl
  · simp [decodeFields, decodeS, fmtSR, fmtSR1, fmtSI, zeros, Sys2Proof.code, tyCode, -BitVec.getLsbD_eq_getElem]

theorem Roundtrip.vand (u : VFile) (g : Guard) (vd : BitVec 5) (va : BitVec 5) (vb : BitVec 5) (pg : BitVec 5) : Roundtrip.Statement (.vand u g vd va vb pg) := by
  refine Roundtrip.of_fields rfl (fun wf => ?_) (fun wf => ?_)
  · rw [opOf_slotWord]; cases u <;> rfl
  · cases u <;> simp [decodeFields, VFile.slot, decodeV, fmtVR, fmtVR1, zeros, Sys2Proof.code, tyCode, -BitVec.getLsbD_eq_getElem]

theorem Roundtrip.vor (u : VFile) (g : Guard) (vd : BitVec 5) (va : BitVec 5) (vb : BitVec 5) (pg : BitVec 5) : Roundtrip.Statement (.vor u g vd va vb pg) := by
  refine Roundtrip.of_fields rfl (fun wf => ?_) (fun wf => ?_)
  · rw [opOf_slotWord]; cases u <;> rfl
  · cases u <;> simp [decodeFields, VFile.slot, decodeV, fmtVR, fmtVR1, zeros, Sys2Proof.code, tyCode, -BitVec.getLsbD_eq_getElem]

theorem Roundtrip.vxor (u : VFile) (g : Guard) (vd : BitVec 5) (va : BitVec 5) (vb : BitVec 5) (pg : BitVec 5) : Roundtrip.Statement (.vxor u g vd va vb pg) := by
  refine Roundtrip.of_fields rfl (fun wf => ?_) (fun wf => ?_)
  · rw [opOf_slotWord]; cases u <;> rfl
  · cases u <;> simp [decodeFields, VFile.slot, decodeV, fmtVR, fmtVR1, zeros, Sys2Proof.code, tyCode, -BitVec.getLsbD_eq_getElem]

theorem Roundtrip.vmov (u : VFile) (g : Guard) (vd : BitVec 5) (va : BitVec 5) (pg : BitVec 5) : Roundtrip.Statement (.vmov u g vd va pg) := by
  refine Roundtrip.of_fields rfl (fun wf => ?_) (fun wf => ?_)
  · rw [opOf_slotWord]; cases u <;> rfl
  · cases u <;> simp [decodeFields, VFile.slot, decodeV, fmtVR, fmtVR1, zeros, Sys2Proof.code, tyCode, -BitVec.getLsbD_eq_getElem]

theorem Roundtrip.vsel (u : VFile) (g : Guard) (vd : BitVec 5) (va : BitVec 5) (vb : BitVec 5) (pg : BitVec 5) : Roundtrip.Statement (.vsel u g vd va vb pg) := by
  refine Roundtrip.of_fields rfl (fun wf => ?_) (fun wf => ?_)
  · rw [opOf_slotWord]; cases u <;> rfl
  · cases u <;> simp [decodeFields, VFile.slot, decodeV, fmtVR, fmtVR1, zeros, Sys2Proof.code, tyCode, -BitVec.getLsbD_eq_getElem]

theorem Roundtrip.vsplat (u : VFile) (g : Guard) (vd : BitVec 5) (imm : BitVec 10) (pg : BitVec 5) : Roundtrip.Statement (.vsplat u g vd imm pg) := by
  refine Roundtrip.of_fields rfl (fun wf => ?_) (fun wf => ?_)
  · rw [opOf_slotWord]; cases u <;> rfl
  · cases u <;> simp [decodeFields, VFile.slot, decodeV, fmtVR, fmtVR1, zeros, Sys2Proof.code, tyCode, -BitVec.getLsbD_eq_getElem]

theorem Roundtrip.vxf (u : VFile) (g : Guard) (vd : BitVec 5) (vs : BitVec 5) (pg : BitVec 5) : Roundtrip.Statement (.vxf u g vd vs pg) := by
  refine Roundtrip.of_fields rfl (fun wf => ?_) (fun wf => ?_)
  · rw [opOf_slotWord]; cases u <;> rfl
  · cases u <;> simp [decodeFields, VFile.slot, decodeV, fmtVR, fmtVR1, zeros, Sys2Proof.code, tyCode, -BitVec.getLsbD_eq_getElem]

theorem Roundtrip.vadd (u : VFile) (g : Guard) (t : IntTy) (vd : BitVec 5) (va : BitVec 5) (vb : BitVec 5) (pg : BitVec 5) : Roundtrip.Statement (.vadd u g t vd va vb pg) := by
  refine Roundtrip.of_fields rfl (fun wf => ?_) (fun wf => ?_)
  · rw [opOf_slotWord]; cases u <;> cases t <;> first | rfl | cases wf
  · cases u <;> simp [decodeFields, VFile.slot, decodeV, fmtVR, fmtVR1, zeros, Sys2Proof.code, tyCode, -BitVec.getLsbD_eq_getElem]

theorem Roundtrip.vsub (u : VFile) (g : Guard) (t : IntTy) (vd : BitVec 5) (va : BitVec 5) (vb : BitVec 5) (pg : BitVec 5) : Roundtrip.Statement (.vsub u g t vd va vb pg) := by
  refine Roundtrip.of_fields rfl (fun wf => ?_) (fun wf => ?_)
  · rw [opOf_slotWord]; cases u <;> cases t <;> first | rfl | cases wf
  · cases u <;> simp [decodeFields, VFile.slot, decodeV, fmtVR, fmtVR1, zeros, Sys2Proof.code, tyCode, -BitVec.getLsbD_eq_getElem]

theorem Roundtrip.vmul (u : VFile) (g : Guard) (t : IntTy) (vd : BitVec 5) (va : BitVec 5) (vb : BitVec 5) (pg : BitVec 5) : Roundtrip.Statement (.vmul u g t vd va vb pg) := by
  refine Roundtrip.of_fields rfl (fun wf => ?_) (fun wf => ?_)
  · rw [opOf_slotWord]; cases u <;> cases t <;> first | rfl | cases wf
  · cases u <;> simp [decodeFields, VFile.slot, decodeV, fmtVR, fmtVR1, zeros, Sys2Proof.code, tyCode, -BitVec.getLsbD_eq_getElem]

theorem Roundtrip.vmulh (u : VFile) (g : Guard) (t : IntTy) (vd : BitVec 5) (va : BitVec 5) (vb : BitVec 5) (pg : BitVec 5) : Roundtrip.Statement (.vmulh u g t vd va vb pg) := by
  refine Roundtrip.of_fields rfl (fun wf => ?_) (fun wf => ?_)
  · rw [opOf_slotWord]; cases u <;> cases t <;> first | rfl | cases wf
  · cases u <;> simp [decodeFields, VFile.slot, decodeV, fmtVR, fmtVR1, zeros, Sys2Proof.code, tyCode, -BitVec.getLsbD_eq_getElem]

theorem Roundtrip.vmin (u : VFile) (g : Guard) (t : IntTy) (vd : BitVec 5) (va : BitVec 5) (vb : BitVec 5) (pg : BitVec 5) : Roundtrip.Statement (.vmin u g t vd va vb pg) := by
  refine Roundtrip.of_fields rfl (fun wf => ?_) (fun wf => ?_)
  · rw [opOf_slotWord]; cases u <;> cases t <;> first | rfl | cases wf
  · cases u <;> simp [decodeFields, VFile.slot, decodeV, fmtVR, fmtVR1, zeros, Sys2Proof.code, tyCode, -BitVec.getLsbD_eq_getElem]

theorem Roundtrip.vmax (u : VFile) (g : Guard) (t : IntTy) (vd : BitVec 5) (va : BitVec 5) (vb : BitVec 5) (pg : BitVec 5) : Roundtrip.Statement (.vmax u g t vd va vb pg) := by
  refine Roundtrip.of_fields rfl (fun wf => ?_) (fun wf => ?_)
  · rw [opOf_slotWord]; cases u <;> cases t <;> first | rfl | cases wf
  · cases u <;> simp [decodeFields, VFile.slot, decodeV, fmtVR, fmtVR1, zeros, Sys2Proof.code, tyCode, -BitVec.getLsbD_eq_getElem]

theorem Roundtrip.vshl (u : VFile) (g : Guard) (t : IntTy) (vd : BitVec 5) (va : BitVec 5) (vb : BitVec 5) (pg : BitVec 5) : Roundtrip.Statement (.vshl u g t vd va vb pg) := by
  refine Roundtrip.of_fields rfl (fun wf => ?_) (fun wf => ?_)
  · rw [opOf_slotWord]; cases u <;> cases t <;> first | rfl | cases wf
  · cases u <;> simp [decodeFields, VFile.slot, decodeV, fmtVR, fmtVR1, zeros, Sys2Proof.code, tyCode, -BitVec.getLsbD_eq_getElem]

theorem Roundtrip.vshr (u : VFile) (g : Guard) (t : IntTy) (vd : BitVec 5) (va : BitVec 5) (vb : BitVec 5) (pg : BitVec 5) : Roundtrip.Statement (.vshr u g t vd va vb pg) := by
  refine Roundtrip.of_fields rfl (fun wf => ?_) (fun wf => ?_)
  · rw [opOf_slotWord]; cases u <;> cases t <;> first | rfl | cases wf
  · cases u <;> simp [decodeFields, VFile.slot, decodeV, fmtVR, fmtVR1, zeros, Sys2Proof.code, tyCode, -BitVec.getLsbD_eq_getElem]

theorem Roundtrip.vsra (u : VFile) (g : Guard) (t : IntTy) (vd : BitVec 5) (va : BitVec 5) (vb : BitVec 5) (pg : BitVec 5) : Roundtrip.Statement (.vsra u g t vd va vb pg) := by
  refine Roundtrip.of_fields rfl (fun wf => ?_) (fun wf => ?_)
  · rw [opOf_slotWord]; cases u <;> cases t <;> first | rfl | cases wf
  · cases u <;> simp [decodeFields, VFile.slot, decodeV, fmtVR, fmtVR1, zeros, Sys2Proof.code, tyCode, -BitVec.getLsbD_eq_getElem]

theorem Roundtrip.vabs (u : VFile) (g : Guard) (t : IntTy) (vd : BitVec 5) (va : BitVec 5) (pg : BitVec 5) : Roundtrip.Statement (.vabs u g t vd va pg) := by
  refine Roundtrip.of_fields rfl (fun wf => ?_) (fun wf => ?_)
  · rw [opOf_slotWord]; cases u <;> cases t <;> first | rfl | cases wf
  · cases u <;> simp [decodeFields, VFile.slot, decodeV, fmtVR, fmtVR1, zeros, Sys2Proof.code, tyCode, -BitVec.getLsbD_eq_getElem]

theorem Roundtrip.vcmp (u : VFile) (g : Guard) (t : IntTy) (pd : BitVec 5) (va : BitVec 5) (vb : BitVec 5) (cc : Cc) : Roundtrip.Statement (.vcmp u g t pd va vb cc) := by
  refine Roundtrip.of_fields rfl (fun wf => ?_) (fun wf => ?_)
  · rw [opOf_slotWord]; cases u <;> cases t <;> first | rfl | cases wf
  · cases u <;> simp [decodeFields, VFile.slot, decodeV, fmtVR, fmtVR1, zeros, Sys2Proof.code, tyCode, -BitVec.getLsbD_eq_getElem]

theorem Roundtrip.viota (u : VFile) (g : Guard) (t : IntTy) (vd : BitVec 5) (imm : BitVec 10) (pg : BitVec 5) : Roundtrip.Statement (.viota u g t vd imm pg) := by
  refine Roundtrip.of_fields rfl (fun wf => ?_) (fun wf => ?_)
  · rw [opOf_slotWord]; cases u <;> cases t <;> first | rfl | cases wf
  · cases u <;> simp [decodeFields, VFile.slot, decodeV, fmtVR, fmtVR1, zeros, Sys2Proof.code, tyCode, -BitVec.getLsbD_eq_getElem]

theorem Roundtrip.vtrn (u : VFile) (g : Guard) (t : IntTy) (vd : BitVec 5) (va : BitVec 5) (vb : BitVec 5) (pg : BitVec 5) : Roundtrip.Statement (.vtrn u g t vd va vb pg) := by
  refine Roundtrip.of_fields rfl (fun wf => ?_) (fun wf => ?_)
  · rw [opOf_slotWord]; cases u <;> cases t <;> first | rfl | cases wf
  · cases u <;> simp [decodeFields, VFile.slot, decodeV, fmtVR, fmtVR1, zeros, Sys2Proof.code, tyCode, -BitVec.getLsbD_eq_getElem]

theorem Roundtrip.vperm (u : VFile) (g : Guard) (t : IntTy) (vd : BitVec 5) (va : BitVec 5) (vb : BitVec 5) (pg : BitVec 5) : Roundtrip.Statement (.vperm u g t vd va vb pg) := by
  refine Roundtrip.of_fields rfl (fun wf => ?_) (fun wf => ?_)
  · rw [opOf_slotWord]; cases u <;> cases t <;> first | rfl | cases wf
  · cases u <;> simp [decodeFields, VFile.slot, decodeV, fmtVR, fmtVR1, zeros, Sys2Proof.code, tyCode, -BitVec.getLsbD_eq_getElem]

theorem Roundtrip.vmovs (u : VFile) (g : Guard) (t : IntTy) (sd : BitVec 6) (va : BitVec 5) (lane : BitVec 8) : Roundtrip.Statement (.vmovs u g t sd va lane) := by
  refine Roundtrip.of_fields rfl (fun wf => ?_) (fun wf => ?_)
  · rw [opOf_slotWord]; cases u <;> cases t <;> first | rfl | cases wf
  · cases u <;> simp [decodeFields, VFile.slot, decodeV, fmtVR, fmtVR1, zeros, Sys2Proof.code, tyCode, -BitVec.getLsbD_eq_getElem]

theorem Roundtrip.vfadd (u : VFile) (g : Guard) (t : FpTy) (vd : BitVec 5) (va : BitVec 5) (vb : BitVec 5) (pg : BitVec 5) : Roundtrip.Statement (.vfadd u g t vd va vb pg) := by
  refine Roundtrip.of_fields rfl (fun wf => ?_) (fun wf => ?_)
  · rw [opOf_slotWord]; cases u <;> cases t <;> first | rfl | cases wf
  · cases u <;> simp [decodeFields, VFile.slot, decodeV, fmtVR, fmtVR1, zeros, Sys2Proof.code, tyCode, -BitVec.getLsbD_eq_getElem]

theorem Roundtrip.vfsub (u : VFile) (g : Guard) (t : FpTy) (vd : BitVec 5) (va : BitVec 5) (vb : BitVec 5) (pg : BitVec 5) : Roundtrip.Statement (.vfsub u g t vd va vb pg) := by
  refine Roundtrip.of_fields rfl (fun wf => ?_) (fun wf => ?_)
  · rw [opOf_slotWord]; cases u <;> cases t <;> first | rfl | cases wf
  · cases u <;> simp [decodeFields, VFile.slot, decodeV, fmtVR, fmtVR1, zeros, Sys2Proof.code, tyCode, -BitVec.getLsbD_eq_getElem]

theorem Roundtrip.vfmul (u : VFile) (g : Guard) (t : FpTy) (vd : BitVec 5) (va : BitVec 5) (vb : BitVec 5) (pg : BitVec 5) : Roundtrip.Statement (.vfmul u g t vd va vb pg) := by
  refine Roundtrip.of_fields rfl (fun wf => ?_) (fun wf => ?_)
  · rw [opOf_slotWord]; cases u <;> cases t <;> first | rfl | cases wf
  · cases u <;> simp [decodeFields, VFile.slot, decodeV, fmtVR, fmtVR1, zeros, Sys2Proof.code, tyCode, -BitVec.getLsbD_eq_getElem]

theorem Roundtrip.vfma (u : VFile) (g : Guard) (t : FpTy) (vd : BitVec 5) (va : BitVec 5) (vb : BitVec 5) (pg : BitVec 5) : Roundtrip.Statement (.vfma u g t vd va vb pg) := by
  refine Roundtrip.of_fields rfl (fun wf => ?_) (fun wf => ?_)
  · rw [opOf_slotWord]; cases u <;> cases t <;> first | rfl | cases wf
  · cases u <;> simp [decodeFields, VFile.slot, decodeV, fmtVR, fmtVR1, zeros, Sys2Proof.code, tyCode, -BitVec.getLsbD_eq_getElem]

theorem Roundtrip.vfnma (u : VFile) (g : Guard) (t : FpTy) (vd : BitVec 5) (va : BitVec 5) (vb : BitVec 5) (pg : BitVec 5) : Roundtrip.Statement (.vfnma u g t vd va vb pg) := by
  refine Roundtrip.of_fields rfl (fun wf => ?_) (fun wf => ?_)
  · rw [opOf_slotWord]; cases u <;> cases t <;> first | rfl | cases wf
  · cases u <;> simp [decodeFields, VFile.slot, decodeV, fmtVR, fmtVR1, zeros, Sys2Proof.code, tyCode, -BitVec.getLsbD_eq_getElem]

theorem Roundtrip.vfmin (u : VFile) (g : Guard) (t : FpTy) (vd : BitVec 5) (va : BitVec 5) (vb : BitVec 5) (pg : BitVec 5) : Roundtrip.Statement (.vfmin u g t vd va vb pg) := by
  refine Roundtrip.of_fields rfl (fun wf => ?_) (fun wf => ?_)
  · rw [opOf_slotWord]; cases u <;> cases t <;> first | rfl | cases wf
  · cases u <;> simp [decodeFields, VFile.slot, decodeV, fmtVR, fmtVR1, zeros, Sys2Proof.code, tyCode, -BitVec.getLsbD_eq_getElem]

theorem Roundtrip.vfmax (u : VFile) (g : Guard) (t : FpTy) (vd : BitVec 5) (va : BitVec 5) (vb : BitVec 5) (pg : BitVec 5) : Roundtrip.Statement (.vfmax u g t vd va vb pg) := by
  refine Roundtrip.of_fields rfl (fun wf => ?_) (fun wf => ?_)
  · rw [opOf_slotWord]; cases u <;> cases t <;> first | rfl | cases wf
  · cases u <;> simp [decodeFields, VFile.slot, decodeV, fmtVR, fmtVR1, zeros, Sys2Proof.code, tyCode, -BitVec.getLsbD_eq_getElem]

theorem Roundtrip.vfsgn (u : VFile) (g : Guard) (t : FpTy) (vd : BitVec 5) (va : BitVec 5) (vb : BitVec 5) (pg : BitVec 5) : Roundtrip.Statement (.vfsgn u g t vd va vb pg) := by
  refine Roundtrip.of_fields rfl (fun wf => ?_) (fun wf => ?_)
  · rw [opOf_slotWord]; cases u <;> cases t <;> first | rfl | cases wf
  · cases u <;> simp [decodeFields, VFile.slot, decodeV, fmtVR, fmtVR1, zeros, Sys2Proof.code, tyCode, -BitVec.getLsbD_eq_getElem]

theorem Roundtrip.vfcmp (u : VFile) (g : Guard) (t : FpTy) (pd : BitVec 5) (va : BitVec 5) (vb : BitVec 5) (cc : Cc) : Roundtrip.Statement (.vfcmp u g t pd va vb cc) := by
  refine Roundtrip.of_fields rfl (fun wf => ?_) (fun wf => ?_)
  · rw [opOf_slotWord]; cases u <;> cases t <;> first | rfl | cases wf
  · cases u <;> simp [decodeFields, VFile.slot, decodeV, fmtVR, fmtVR1, zeros, Sys2Proof.code, tyCode, -BitVec.getLsbD_eq_getElem]

theorem Roundtrip.vsfu (u : VFile) (g : Guard) (fn : Sfu) (vd : BitVec 5) (va : BitVec 5) (pg : BitVec 5) : Roundtrip.Statement (.vsfu u g fn vd va pg) := by
  refine Roundtrip.of_fields rfl (fun wf => ?_) (fun wf => ?_)
  · rw [opOf_slotWord]; cases u <;> rfl
  · cases u <;> simp [decodeFields, VFile.slot, decodeV, fmtVR, fmtVR1, zeros, Sys2Proof.code, tyCode, -BitVec.getLsbD_eq_getElem]

theorem Roundtrip.vred (u : VFile) (g : Guard) (vd : BitVec 5) (va : BitVec 5) (pg : BitVec 5) : Roundtrip.Statement (.vred u g vd va pg) := by
  refine Roundtrip.of_fields rfl (fun wf => ?_) (fun wf => ?_)
  · rw [opOf_slotWord]; cases u <;> rfl
  · cases u <;> simp [decodeFields, VFile.slot, decodeV, fmtVR, fmtVR1, zeros, Sys2Proof.code, tyCode, -BitVec.getLsbD_eq_getElem]

theorem Roundtrip.vcomb (u : VFile) (g : Guard) (vd : BitVec 5) (va : BitVec 5) (vb : BitVec 5) (pg : BitVec 5) : Roundtrip.Statement (.vcomb u g vd va vb pg) := by
  refine Roundtrip.of_fields rfl (fun wf => ?_) (fun wf => ?_)
  · rw [opOf_slotWord]; cases u <;> rfl
  · cases u <;> simp [decodeFields, VFile.slot, decodeV, fmtVR, fmtVR1, zeros, Sys2Proof.code, tyCode, -BitVec.getLsbD_eq_getElem]

theorem Roundtrip.vcvt (u : VFile) (g : Guard) (d : CvTy) (s : CvTy) (rm : Rm) (vd : BitVec 5) (va : BitVec 5) (pg : BitVec 5) : Roundtrip.Statement (.vcvt u g d s rm vd va pg) := by
  refine Roundtrip.of_fields rfl (fun wf => ?_) (fun wf => ?_)
  · rw [opOf_slotWord]; cases u <;> rcases d with ⟨⟨⟩⟩ | _ | _ <;> rfl
  · cases u <;> simp [decodeFields, VFile.slot, decodeV, fmtVR, fmtVR1, zeros, Sys2Proof.code, tyCode, -BitVec.getLsbD_eq_getElem]

theorem Roundtrip.vqnt (u : VFile) (g : Guard) (t : FpTy) (vd : BitVec 5) (va : BitVec 5) (pg : BitVec 5) : Roundtrip.Statement (.vqnt u g t vd va pg) := by
  refine Roundtrip.of_fields rfl (fun wf => ?_) (fun wf => ?_)
  · rw [opOf_slotWord]; cases u <;> cases t <;> first | rfl | cases wf
  · cases u <;> simp [decodeFields, VFile.slot, decodeV, fmtVR, fmtVR1, zeros, Sys2Proof.code, tyCode, -BitVec.getLsbD_eq_getElem]

theorem Roundtrip.vdqnt (u : VFile) (g : Guard) (t : FpTy) (vd : BitVec 5) (va : BitVec 5) (pg : BitVec 5) : Roundtrip.Statement (.vdqnt u g t vd va pg) := by
  refine Roundtrip.of_fields rfl (fun wf => ?_) (fun wf => ?_)
  · rw [opOf_slotWord]; cases u <;> cases t <;> first | rfl | cases wf
  · cases u <;> simp [decodeFields, VFile.slot, decodeV, fmtVR, fmtVR1, zeros, Sys2Proof.code, tyCode, -BitVec.getLsbD_eq_getElem]

theorem Roundtrip.plogic (u : VFile) (g : Guard) (pd : BitVec 5) (pa : BitVec 5) (pb : BitVec 5) (tt : BitVec 4) : Roundtrip.Statement (.plogic u g pd pa pb tt) := by
  refine Roundtrip.of_fields rfl (fun wf => ?_) (fun wf => ?_)
  · rw [opOf_slotWord]; cases u <;> rfl
  · cases u <;> simp [decodeFields, VFile.slot, decodeV, fmtVR, fmtVR1, zeros, Sys2Proof.code, tyCode, -BitVec.getLsbD_eq_getElem]

theorem Roundtrip.pset (u : VFile) (g : Guard) (pd : BitVec 5) (n : BitVec 9) : Roundtrip.Statement (.pset u g pd n) := by
  refine Roundtrip.of_fields rfl (fun wf => ?_) (fun wf => ?_)
  · rw [opOf_slotWord]; cases u <;> rfl
  · cases u <;> simp [decodeFields, VFile.slot, decodeV, fmtVR, fmtVR1, zeros, Sys2Proof.code, tyCode, -BitVec.getLsbD_eq_getElem]

theorem Roundtrip.vany (u : VFile) (g : Guard) (fd : BitVec 3) (pa : BitVec 5) : Roundtrip.Statement (.vany u g fd pa) := by
  refine Roundtrip.of_fields rfl (fun wf => ?_) (fun wf => ?_)
  · rw [opOf_slotWord]; cases u <;> rfl
  · cases u <;> simp [decodeFields, VFile.slot, decodeV, fmtVR, fmtVR1, zeros, Sys2Proof.code, tyCode, -BitVec.getLsbD_eq_getElem]

theorem Roundtrip.vall (u : VFile) (g : Guard) (fd : BitVec 3) (pa : BitVec 5) : Roundtrip.Statement (.vall u g fd pa) := by
  refine Roundtrip.of_fields rfl (fun wf => ?_) (fun wf => ?_)
  · rw [opOf_slotWord]; cases u <;> rfl
  · cases u <;> simp [decodeFields, VFile.slot, decodeV, fmtVR, fmtVR1, zeros, Sys2Proof.code, tyCode, -BitVec.getLsbD_eq_getElem]

theorem Roundtrip.mopen (g : Guard) (ch : BitVec 3) (h : BitVec 5) (d : BitVec 5) (cs : BitVec 3) (mk : BitVec 4) : Roundtrip.Statement (.mopen g ch h d cs mk) := by
  refine Roundtrip.of_fields rfl (fun wf => ?_) (fun wf => ?_)
  · rw [opOf_slotWord]; rfl
  · simp [decodeFields, decodeM, fmtMM, zeros, Sys2Proof.code, tyCode, -BitVec.getLsbD_eq_getElem]

theorem Roundtrip.mclose (g : Guard) (ch : BitVec 3) : Roundtrip.Statement (.mclose g ch) := by
  refine Roundtrip.of_fields rfl (fun wf => ?_) (fun wf => ?_)
  · rw [opOf_slotWord]; rfl
  · simp [decodeFields, decodeM, fmtMM, zeros, Sys2Proof.code, tyCode, -BitVec.getLsbD_eq_getElem]

theorem Roundtrip.mcomb (g : Guard) (ch : BitVec 3) (chb : BitVec 3) : Roundtrip.Statement (.mcomb g ch chb) := by
  refine Roundtrip.of_fields rfl (fun wf => ?_) (fun wf => ?_)
  · rw [opOf_slotWord]; rfl
  · simp [decodeFields, decodeM, fmtMM, zeros, Sys2Proof.code, tyCode, -BitVec.getLsbD_eq_getElem]

theorem Roundtrip.mout (g : Guard) (pl : BitVec 5) (mx : BitVec 4) (t : FpTy) (rm : Rm) : Roundtrip.Statement (.mout g pl mx t rm) := by
  refine Roundtrip.of_fields rfl (fun wf => ?_) (fun wf => ?_)
  · rw [opOf_slotWord]; rfl
  · simp [decodeFields, decodeM, fmtMM, zeros, Sys2Proof.code, tyCode, -BitVec.getLsbD_eq_getElem]

theorem Roundtrip.mlda (g : Guard) (pl : BitVec 5) (mx : BitVec 4) (t : FpTy) : Roundtrip.Statement (.mlda g pl mx t) := by
  refine Roundtrip.of_fields rfl (fun wf => ?_) (fun wf => ?_)
  · rw [opOf_slotWord]; rfl
  · simp [decodeFields, decodeM, fmtMM, zeros, Sys2Proof.code, tyCode, -BitVec.getLsbD_eq_getElem]

theorem Roundtrip.mscale (g : Guard) (tabB : Bool) (mx : BitVec 4) : Roundtrip.Statement (.mscale g tabB mx) := by
  refine Roundtrip.of_fields rfl (fun wf => ?_) (fun wf => ?_)
  · rw [opOf_slotWord]; rfl
  · simp [decodeFields, decodeM, fmtMM, zeros, Sys2Proof.code, tyCode, -BitVec.getLsbD_eq_getElem]

theorem Roundtrip.mcfg (g : Guard) (cfg : BitVec 20) : Roundtrip.Statement (.mcfg g cfg) := by
  refine Roundtrip.of_fields rfl (fun wf => ?_) (fun wf => ?_)
  · rw [opOf_slotWord]; rfl
  · simp [decodeFields, decodeM, fmtMM, zeros, Sys2Proof.code, tyCode, -BitVec.getLsbD_eq_getElem]

theorem Roundtrip.mset (g : Guard) (md : BitVec 4) (imm : BitVec 16) : Roundtrip.Statement (.mset g md imm) := by
  refine Roundtrip.of_fields rfl (fun wf => ?_) (fun wf => ?_)
  · rw [opOf_slotWord]; rfl
  · simp [decodeFields, decodeM, fmtMM, zeros, Sys2Proof.code, tyCode, -BitVec.getLsbD_eq_getElem]

theorem Roundtrip.madd (g : Guard) (md : BitVec 4) (imm : BitVec 16) : Roundtrip.Statement (.madd g md imm) := by
  refine Roundtrip.of_fields rfl (fun wf => ?_) (fun wf => ?_)
  · rw [opOf_slotWord]; rfl
  · simp [decodeFields, decodeM, fmtMM, zeros, Sys2Proof.code, tyCode, -BitVec.getLsbD_eq_getElem]

theorem Roundtrip.mma (g : Guard) (t : MatTy) (ch : BitVec 3) (mx : BitVec 4) (my : BitVec 4) (ms : BitVec 4) (mt : BitVec 4) : Roundtrip.Statement (.mma g t ch mx my ms mt) := by
  refine Roundtrip.of_fields rfl (fun wf => ?_) (fun wf => ?_)
  · rw [opOf_slotWord]; cases t <;> rfl
  · cases t <;> simp [decodeFields, decodeM, fmtMM, zeros, Sys2Proof.code, tyCode, -BitVec.getLsbD_eq_getElem, MatTy.code, MatTy.ofCode?]

theorem Roundtrip.mmag (g : Guard) (t : MatTy) (ch : BitVec 3) (mx : BitVec 4) (my : BitVec 4) (ms : BitVec 4) (mt : BitVec 4) : Roundtrip.Statement (.mmag g t ch mx my ms mt) := by
  refine Roundtrip.of_fields rfl (fun wf => ?_) (fun wf => ?_)
  · rw [opOf_slotWord]; cases t <;> rfl
  · cases t <;> simp [decodeFields, decodeM, fmtMM, zeros, Sys2Proof.code, tyCode, -BitVec.getLsbD_eq_getElem, MatTy.code, MatTy.ofCode?]

theorem Roundtrip.vld (g : Guard) (f : VFile) (v : BitVec 5) (aa : BitVec 5) (disp : BitVec 9) : Roundtrip.Statement (.vld g f v aa disp) := by
  refine Roundtrip.of_fields rfl (fun wf => ?_) (fun wf => ?_)
  · rw [opOf_slotWord]; rfl
  · simp [decodeFields, decodeL, zeros, Sys2Proof.code, tyCode, -BitVec.getLsbD_eq_getElem]

theorem Roundtrip.vst (g : Guard) (f : VFile) (v : BitVec 5) (aa : BitVec 5) (disp : BitVec 9) : Roundtrip.Statement (.vst g f v aa disp) := by
  refine Roundtrip.of_fields rfl (fun wf => ?_) (fun wf => ?_)
  · rw [opOf_slotWord]; rfl
  · simp [decodeFields, decodeL, zeros, Sys2Proof.code, tyCode, -BitVec.getLsbD_eq_getElem]

theorem Roundtrip.vlds (g : Guard) (f : VFile) (v : BitVec 5) (aa : BitVec 5) (ax : BitVec 5) : Roundtrip.Statement (.vlds g f v aa ax) := by
  refine Roundtrip.of_fields rfl (fun wf => ?_) (fun wf => ?_)
  · rw [opOf_slotWord]; rfl
  · simp [decodeFields, decodeL, zeros, Sys2Proof.code, tyCode, -BitVec.getLsbD_eq_getElem]

theorem Roundtrip.vsts (g : Guard) (f : VFile) (v : BitVec 5) (aa : BitVec 5) (ax : BitVec 5) : Roundtrip.Statement (.vsts g f v aa ax) := by
  refine Roundtrip.of_fields rfl (fun wf => ?_) (fun wf => ?_)
  · rw [opOf_slotWord]; rfl
  · simp [decodeFields, decodeL, zeros, Sys2Proof.code, tyCode, -BitVec.getLsbD_eq_getElem]

theorem Roundtrip.vldb (g : Guard) (f : VFile) (v : BitVec 5) (aa : BitVec 5) (disp : BitVec 9) : Roundtrip.Statement (.vldb g f v aa disp) := by
  refine Roundtrip.of_fields rfl (fun wf => ?_) (fun wf => ?_)
  · rw [opOf_slotWord]; rfl
  · simp [decodeFields, decodeL, zeros, Sys2Proof.code, tyCode, -BitVec.getLsbD_eq_getElem]

theorem Roundtrip.pld (g : Guard) (pd : BitVec 5) (aa : BitVec 5) (disp : BitVec 10) : Roundtrip.Statement (.pld g pd aa disp) := by
  refine Roundtrip.of_fields rfl (fun wf => ?_) (fun wf => ?_)
  · rw [opOf_slotWord]; rfl
  · simp [decodeFields, decodeL, zeros, Sys2Proof.code, tyCode, -BitVec.getLsbD_eq_getElem]

theorem Roundtrip.pst (g : Guard) (pd : BitVec 5) (aa : BitVec 5) (disp : BitVec 10) : Roundtrip.Statement (.pst g pd aa disp) := by
  refine Roundtrip.of_fields rfl (fun wf => ?_) (fun wf => ?_)
  · rw [opOf_slotWord]; rfl
  · simp [decodeFields, decodeL, zeros, Sys2Proof.code, tyCode, -BitVec.getLsbD_eq_getElem]

theorem Roundtrip.aadd (g : Guard) (ad : BitVec 5) (aa : BitVec 5) (ab : BitVec 5) : Roundtrip.Statement (.aadd g ad aa ab) := by
  refine Roundtrip.of_fields rfl (fun wf => ?_) (fun wf => ?_)
  · rw [opOf_slotWord]; rfl
  · simp [decodeFields, decodeL, zeros, Sys2Proof.code, tyCode, -BitVec.getLsbD_eq_getElem]

theorem Roundtrip.aaddi (g : Guard) (ad : BitVec 5) (aa : BitVec 5) (imm : BitVec 10) : Roundtrip.Statement (.aaddi g ad aa imm) := by
  refine Roundtrip.of_fields rfl (fun wf => ?_) (fun wf => ?_)
  · rw [opOf_slotWord]; rfl
  · simp [decodeFields, decodeL, zeros, Sys2Proof.code, tyCode, -BitVec.getLsbD_eq_getElem]

theorem Roundtrip.aset (g : Guard) (ad : BitVec 5) (imm : BitVec 15) : Roundtrip.Statement (.aset g ad imm) := by
  refine Roundtrip.of_fields rfl (fun wf => ?_) (fun wf => ?_)
  · rw [opOf_slotWord]; rfl
  · simp [decodeFields, decodeL, zeros, Sys2Proof.code, tyCode, -BitVec.getLsbD_eq_getElem]

theorem Roundtrip.ald (g : Guard) (ad : BitVec 5) (aa : BitVec 5) (disp : BitVec 10) : Roundtrip.Statement (.ald g ad aa disp) := by
  refine Roundtrip.of_fields rfl (fun wf => ?_) (fun wf => ?_)
  · rw [opOf_slotWord]; rfl
  · simp [decodeFields, decodeL, zeros, Sys2Proof.code, tyCode, -BitVec.getLsbD_eq_getElem]

theorem Roundtrip.ast (g : Guard) (ad : BitVec 5) (aa : BitVec 5) (disp : BitVec 10) : Roundtrip.Statement (.ast g ad aa disp) := by
  refine Roundtrip.of_fields rfl (fun wf => ?_) (fun wf => ?_)
  · rw [opOf_slotWord]; rfl
  · simp [decodeFields, decodeL, zeros, Sys2Proof.code, tyCode, -BitVec.getLsbD_eq_getElem]

theorem Roundtrip.vgth (g : Guard) (t : IntTy) (f : VFile) (v : BitVec 5) (aa : BitVec 5) (vx : BitVec 5) : Roundtrip.Statement (.vgth g t f v aa vx) := by
  refine Roundtrip.of_fields rfl (fun wf => ?_) (fun wf => ?_)
  · rw [opOf_slotWord]; cases t <;> first | rfl | cases wf
  · cases t <;> simp [decodeFields, decodeL, zeros, Sys2Proof.code, tyCode, -BitVec.getLsbD_eq_getElem, IntTy.code, IntTy.ofCode]

theorem Roundtrip.vsct (g : Guard) (t : IntTy) (f : VFile) (v : BitVec 5) (aa : BitVec 5) (vx : BitVec 5) : Roundtrip.Statement (.vsct g t f v aa vx) := by
  refine Roundtrip.of_fields rfl (fun wf => ?_) (fun wf => ?_)
  · rw [opOf_slotWord]; cases t <;> first | rfl | cases wf
  · cases t <;> simp [decodeFields, decodeL, zeros, Sys2Proof.code, tyCode, -BitVec.getLsbD_eq_getElem, IntTy.code, IntTy.ofCode]

theorem Roundtrip.sld (g : Guard) (t : IntTy) (sd : BitVec 6) (aa : BitVec 5) (disp : BitVec 9) : Roundtrip.Statement (.sld g t sd aa disp) := by
  refine Roundtrip.of_fields rfl (fun wf => ?_) (fun wf => ?_)
  · rw [opOf_slotWord]; cases t <;> rfl
  · cases t <;> simp [decodeFields, decodeL, zeros, Sys2Proof.code, tyCode, -BitVec.getLsbD_eq_getElem, IntTy.code, IntTy.ofCode]

theorem Roundtrip.sst (g : Guard) (t : IntTy) (sd : BitVec 6) (aa : BitVec 5) (disp : BitVec 9) : Roundtrip.Statement (.sst g t sd aa disp) := by
  refine Roundtrip.of_fields rfl (fun wf => ?_) (fun wf => ?_)
  · rw [opOf_slotWord]; cases t <;> first | rfl | cases wf
  · cases t <;> simp [decodeFields, decodeL, zeros, Sys2Proof.code, tyCode, -BitVec.getLsbD_eq_getElem, IntTy.code, IntTy.ofCode]

theorem Roundtrip.latom (g : Guard) (t : AtomTy) (op : AtomOp) (sd : BitVec 6) (aa : BitVec 5) (sb : BitVec 6) (ord : Ord) : Roundtrip.Statement (.latom g t op sd aa sb ord) := by
  refine Roundtrip.of_fields rfl (fun wf => ?_) (fun wf => ?_)
  · rw [opOf_slotWord]; cases t <;> cases op <;> rfl
  · cases t <;> cases op <;> simp [decodeFields, decodeL, zeros, Sys2Proof.code, tyCode, -BitVec.getLsbD_eq_getElem, AtomTy.code, AtomTy.ofCode, AtomOp.code, AtomOp.ofCode, atomOpcode, atomRow, atomTa]

theorem Roundtrip.cpy (g : Guard) (ad : BitVec 5) (src : BitVec 5) (ac : BitVec 5) : Roundtrip.Statement (.cpy g ad src ac) := by
  refine Roundtrip.of_fields rfl (fun wf => ?_) (fun wf => ?_)
  · rw [opOf_slotWord]; rfl
  · simp [decodeFields, decodeQ, fmtQC, fmtQC0, fmtQA, zeros, Sys2Proof.code, tyCode, -BitVec.getLsbD_eq_getElem]

theorem Roundtrip.cpy2 (g : Guard) (ad : BitVec 5) (src : BitVec 5) (ac : BitVec 5) (ax : BitVec 5) : Roundtrip.Statement (.cpy2 g ad src ac ax) := by
  refine Roundtrip.of_fields rfl (fun wf => ?_) (fun wf => ?_)
  · rw [opOf_slotWord]; rfl
  · simp [decodeFields, decodeQ, fmtQC, fmtQC0, fmtQA, zeros, Sys2Proof.code, tyCode, -BitVec.getLsbD_eq_getElem]

theorem Roundtrip.cpyt (g : Guard) (ad : BitVec 5) (src : BitVec 5) (ac : BitVec 5) : Roundtrip.Statement (.cpyt g ad src ac) := by
  refine Roundtrip.of_fields rfl (fun wf => ?_) (fun wf => ?_)
  · rw [opOf_slotWord]; rfl
  · simp [decodeFields, decodeQ, fmtQC, fmtQC0, fmtQA, zeros, Sys2Proof.code, tyCode, -BitVec.getLsbD_eq_getElem]

theorem Roundtrip.cpylt (g : Guard) (ad : BitVec 5) (src : BitVec 5) (ac : BitVec 5) : Roundtrip.Statement (.cpylt g ad src ac) := by
  refine Roundtrip.of_fields rfl (fun wf => ?_) (fun wf => ?_)
  · rw [opOf_slotWord]; rfl
  · simp [decodeFields, decodeQ, fmtQC, fmtQC0, fmtQA, zeros, Sys2Proof.code, tyCode, -BitVec.getLsbD_eq_getElem]

theorem Roundtrip.cpya (g : Guard) (ad : BitVec 5) (src : BitVec 5) (ac : BitVec 5) : Roundtrip.Statement (.cpya g ad src ac) := by
  refine Roundtrip.of_fields rfl (fun wf => ?_) (fun wf => ?_)
  · rw [opOf_slotWord]; rfl
  · simp [decodeFields, decodeQ, fmtQC, fmtQC0, fmtQA, zeros, Sys2Proof.code, tyCode, -BitVec.getLsbD_eq_getElem]

theorem Roundtrip.cpyz (g : Guard) (ad : BitVec 5) (ac : BitVec 5) : Roundtrip.Statement (.cpyz g ad ac) := by
  refine Roundtrip.of_fields rfl (fun wf => ?_) (fun wf => ?_)
  · rw [opOf_slotWord]; rfl
  · simp [decodeFields, decodeQ, fmtQC, fmtQC0, fmtQA, zeros, Sys2Proof.code, tyCode, -BitVec.getLsbD_eq_getElem]

theorem Roundtrip.cpyg (g : Guard) (ad : BitVec 5) (src : BitVec 5) (ac : BitVec 5) (ax : BitVec 5) : Roundtrip.Statement (.cpyg g ad src ac ax) := by
  refine Roundtrip.of_fields rfl (fun wf => ?_) (fun wf => ?_)
  · rw [opOf_slotWord]; rfl
  · simp [decodeFields, decodeQ, fmtQC, fmtQC0, fmtQA, zeros, Sys2Proof.code, tyCode, -BitVec.getLsbD_eq_getElem]

theorem Roundtrip.cpyr (g : Guard) (ar : BitVec 5) : Roundtrip.Statement (.cpyr g ar) := by
  refine Roundtrip.of_fields rfl (fun wf => ?_) (fun wf => ?_)
  · rw [opOf_slotWord]; rfl
  · simp [decodeFields, decodeQ, fmtQC, fmtQC0, fmtQA, zeros, Sys2Proof.code, tyCode, -BitVec.getLsbD_eq_getElem]

theorem Roundtrip.atom (g : Guard) (t : AtomTy) (op : AtomOp) (aa : BitVec 5) (ac : BitVec 5) (sv : BitVec 6) (ord : Ord) : Roundtrip.Statement (.atom g t op aa ac sv ord) := by
  refine Roundtrip.of_fields rfl (fun wf => ?_) (fun wf => ?_)
  · rw [opOf_slotWord]; cases t <;> cases op <;> rfl
  · cases t <;> cases op <;> simp [decodeFields, decodeQ, fmtQC, fmtQC0, fmtQA, zeros, Sys2Proof.code, tyCode, -BitVec.getLsbD_eq_getElem, AtomTy.code, AtomTy.ofCode, AtomOp.code, AtomOp.ofCode, atomOpcode, atomRow, atomTa]

theorem Roundtrip.atomFadd (g : Guard) (aa : BitVec 5) (ac : BitVec 5) (sv : BitVec 6) : Roundtrip.Statement (.atomFadd g aa ac sv) := by
  refine Roundtrip.of_fields rfl (fun wf => ?_) (fun wf => ?_)
  · rw [opOf_slotWord]; rfl
  · simp [decodeFields, decodeQ, fmtQC, fmtQC0, fmtQA, zeros, Sys2Proof.code, tyCode, -BitVec.getLsbD_eq_getElem]

theorem Roundtrip.atomx (g : Guard) (aa : BitVec 5) (ar : BitVec 5) (ac : BitVec 5) : Roundtrip.Statement (.atomx g aa ar ac) := by
  refine Roundtrip.of_fields rfl (fun wf => ?_) (fun wf => ?_)
  · rw [opOf_slotWord]; rfl
  · simp [decodeFields, decodeQ, fmtQC, fmtQC0, fmtQA, zeros, Sys2Proof.code, tyCode, -BitVec.getLsbD_eq_getElem]

theorem Roundtrip.rst (g : Guard) (ad : BitVec 5) (src : BitVec 5) (ac : BitVec 5) : Roundtrip.Statement (.rst g ad src ac) := by
  refine Roundtrip.of_fields rfl (fun wf => ?_) (fun wf => ?_)
  · rw [opOf_slotWord]; rfl
  · simp [decodeFields, decodeN, fmtQC, fmtQC0, fmtQA, zeros, Sys2Proof.code, tyCode, -BitVec.getLsbD_eq_getElem]

theorem Roundtrip.rsts (g : Guard) (ar : BitVec 5) (sv : BitVec 6) (ac : BitVec 5) : Roundtrip.Statement (.rsts g ar sv ac) := by
  refine Roundtrip.of_fields rfl (fun wf => ?_) (fun wf => ?_)
  · rw [opOf_slotWord]; rfl
  · simp [decodeFields, decodeN, fmtQC, fmtQC0, fmtQA, zeros, Sys2Proof.code, tyCode, -BitVec.getLsbD_eq_getElem]

theorem Roundtrip.rcpy (g : Guard) (ad : BitVec 5) (src : BitVec 5) (ac : BitVec 5) : Roundtrip.Statement (.rcpy g ad src ac) := by
  refine Roundtrip.of_fields rfl (fun wf => ?_) (fun wf => ?_)
  · rw [opOf_slotWord]; rfl
  · simp [decodeFields, decodeN, fmtQC, fmtQC0, fmtQA, zeros, Sys2Proof.code, tyCode, -BitVec.getLsbD_eq_getElem]

theorem Roundtrip.rget (g : Guard) (ad : BitVec 5) (src : BitVec 5) (ac : BitVec 5) : Roundtrip.Statement (.rget g ad src ac) := by
  refine Roundtrip.of_fields rfl (fun wf => ?_) (fun wf => ?_)
  · rw [opOf_slotWord]; rfl
  · simp [decodeFields, decodeN, fmtQC, fmtQC0, fmtQA, zeros, Sys2Proof.code, tyCode, -BitVec.getLsbD_eq_getElem]

theorem Roundtrip.rsig (g : Guard) (ar : BitVec 5) (inc : BitVec 8) (sc : Scope) (rel : Bool) : Roundtrip.Statement (.rsig g ar inc sc rel) := by
  refine Roundtrip.of_fields rfl (fun wf => ?_) (fun wf => ?_)
  · rw [opOf_slotWord]; rfl
  · simp [decodeFields, decodeN, fmtQC, fmtQC0, fmtQA, zeros, Sys2Proof.code, tyCode, -BitVec.getLsbD_eq_getElem]

theorem Roundtrip.mcast (g : Guard) (ad : BitVec 5) (src : BitVec 5) (ac : BitVec 5) (ax : BitVec 5) : Roundtrip.Statement (.mcast g ad src ac ax) := by
  refine Roundtrip.of_fields rfl (fun wf => ?_) (fun wf => ?_)
  · rw [opOf_slotWord]; rfl
  · simp [decodeFields, decodeN, fmtQC, fmtQC0, fmtQA, zeros, Sys2Proof.code, tyCode, -BitVec.getLsbD_eq_getElem]

theorem Roundtrip.ratom (g : Guard) (t : AtomTy) (op : AtomOp) (aa : BitVec 5) (ac : BitVec 5) (sv : BitVec 6) (ord : Ord) : Roundtrip.Statement (.ratom g t op aa ac sv ord) := by
  refine Roundtrip.of_fields rfl (fun wf => ?_) (fun wf => ?_)
  · rw [opOf_slotWord]; cases t <;> cases op <;> rfl
  · cases t <;> cases op <;> simp [decodeFields, decodeN, fmtQC, fmtQC0, fmtQA, zeros, Sys2Proof.code, tyCode, -BitVec.getLsbD_eq_getElem, AtomTy.code, AtomTy.ofCode, AtomOp.code, AtomOp.ofCode, atomOpcode, atomRow, atomTa]

theorem Roundtrip.resultLand (k : CtxKey) (i : Nat) : Roundtrip.Statement (.resultLand k i) :=
  Roundtrip.of_event rfl

theorem Roundtrip.waitRetire (k : CtxKey) : Roundtrip.Statement (.waitRetire k) :=
  Roundtrip.of_event rfl

theorem Roundtrip.fnwRetire (k : CtxKey) : Roundtrip.Statement (.fnwRetire k) :=
  Roundtrip.of_event rfl

theorem Roundtrip.fenceRetire (k : CtxKey) : Roundtrip.Statement (.fenceRetire k) :=
  Roundtrip.of_event rfl

theorem Roundtrip.evwaitRetire (k : CtxKey) : Roundtrip.Statement (.evwaitRetire k) :=
  Roundtrip.of_event rfl

theorem Roundtrip.sysReply (k : CtxKey) : Roundtrip.Statement (.sysReply k) :=
  Roundtrip.of_event rfl

theorem Roundtrip.latomPerform (k : CtxKey) : Roundtrip.Statement (.latomPerform k) :=
  Roundtrip.of_event rfl

theorem Roundtrip.copyRequestServe (k : CtxKey) (e : Nat) : Roundtrip.Statement (.copyRequestServe k e) :=
  Roundtrip.of_event rfl

theorem Roundtrip.lmPortServe (site : Nat) : Roundtrip.Statement (.lmPortServe site) :=
  Roundtrip.of_event rfl

theorem Roundtrip.channelServe (ch : Nat) : Roundtrip.Statement (.channelServe ch) :=
  Roundtrip.of_event rfl

theorem Roundtrip.atomicPerform (h : AtomHome) : Roundtrip.Statement (.atomicPerform h) :=
  Roundtrip.of_event rfl

theorem Roundtrip.atomxRoutineRun (ch : Nat) : Roundtrip.Statement (.atomxRoutineRun ch) :=
  Roundtrip.of_event rfl

theorem Roundtrip.remoteArrival (m : ClpMsg) : Roundtrip.Statement (.remoteArrival m) :=
  Roundtrip.of_event rfl

theorem Roundtrip.walkReadReturn (die : Nat) (w : Nat) : Roundtrip.Statement (.walkReadReturn die w) :=
  Roundtrip.of_event rfl

theorem Roundtrip.copyComplete (k : CtxKey) (e : Nat) : Roundtrip.Statement (.copyComplete k e) :=
  Roundtrip.of_event rfl

theorem Roundtrip.copyCut (k : CtxKey) (e : Nat) : Roundtrip.Statement (.copyCut k e) :=
  Roundtrip.of_event rfl

theorem Roundtrip.copyFatal (k : CtxKey) (e : Nat) : Roundtrip.Statement (.copyFatal k e) :=
  Roundtrip.of_event rfl

theorem Roundtrip.mUnitStart (site : Nat) : Roundtrip.Statement (.mUnitStart site) :=
  Roundtrip.of_event rfl

theorem Roundtrip.mUnitEnd (site : Nat) : Roundtrip.Statement (.mUnitEnd site) :=
  Roundtrip.of_event rfl

theorem Roundtrip.mmagSliceArrive (k : CtxKey) (sender : Nat) : Roundtrip.Statement (.mmagSliceArrive k sender) :=
  Roundtrip.of_event rfl

theorem Roundtrip.timingReplay (site : Nat) : Roundtrip.Statement (.timingReplay site) :=
  Roundtrip.of_event rfl

theorem Roundtrip.mhtRegrd (h : Mht) (off : Nat) : Roundtrip.Statement (.mhtRegrd h off) :=
  Roundtrip.of_event rfl

theorem Roundtrip.mhtRegwr (h : Mht) (off : Nat) (v : Word) : Roundtrip.Statement (.mhtRegwr h off v) :=
  Roundtrip.of_event rfl

theorem Roundtrip.mhtMemrd (h : Mht) (pa : Nat) (len : Nat) : Roundtrip.Statement (.mhtMemrd h pa len) :=
  Roundtrip.of_event rfl

theorem Roundtrip.mhtMemwr (h : Mht) (pa : Nat) (bytes : List Byte) : Roundtrip.Statement (.mhtMemwr h pa bytes) :=
  Roundtrip.of_event rfl

theorem Roundtrip.bootload (h : Mht) (image : List Byte) : Roundtrip.Statement (.bootload h image) :=
  Roundtrip.of_event rfl

theorem Roundtrip.fwstage (h : Mht) (target : Nat) (pa : Nat) : Roundtrip.Statement (.fwstage h target pa) :=
  Roundtrip.of_event rfl

theorem Roundtrip.attest (h : Mht) (nonce : BitVec 256) : Roundtrip.Statement (.attest h nonce) :=
  Roundtrip.of_event rfl

theorem Roundtrip.evpost (h : Mht) (queue : Nat) (seq : Nat) : Roundtrip.Statement (.evpost h queue seq) :=
  Roundtrip.of_event rfl

theorem Roundtrip.nreply (h : Mht) (k : CtxKey) (v : Word) : Roundtrip.Statement (.nreply h k v) :=
  Roundtrip.of_event rfl

theorem Roundtrip.steppe (h : Mht) : Roundtrip.Statement (.steppe h) :=
  Roundtrip.of_event rfl

theorem Roundtrip.invAll (h : Mht) (v : Word) : Roundtrip.Statement (.invAll h v) :=
  Roundtrip.of_event rfl

theorem Roundtrip.invAsid (h : Mht) (v : Word) : Roundtrip.Statement (.invAsid h v) :=
  Roundtrip.of_event rfl

theorem Roundtrip.invRange (h : Mht) (v : Word) : Roundtrip.Statement (.invRange h v) :=
  Roundtrip.of_event rfl

theorem Roundtrip.invGlobal (h : Mht) (v : Word) : Roundtrip.Statement (.invGlobal h v) :=
  Roundtrip.of_event rfl

theorem Roundtrip.devcfgWrite (h : Mht) (v : Word) : Roundtrip.Statement (.devcfgWrite h v) :=
  Roundtrip.of_event rfl

theorem Roundtrip.routeEntryWrite (h : Mht) (i : Nat) (v : Word) : Roundtrip.Statement (.routeEntryWrite h i v) :=
  Roundtrip.of_event rfl

theorem Roundtrip.savebaseWrite (h : Mht) (v : Word) : Roundtrip.Statement (.savebaseWrite h v) :=
  Roundtrip.of_event rfl

theorem Roundtrip.tkill (h : Mht) (v : Word) : Roundtrip.Statement (.tkill h v) :=
  Roundtrip.of_event rfl

theorem Roundtrip.errsumClear (h : Mht) (v : Word) : Roundtrip.Statement (.errsumClear h v) :=
  Roundtrip.of_event rfl

theorem Roundtrip.fenceRequest (h : Mht) (site : Nat) (v : Word) : Roundtrip.Statement (.fenceRequest h site v) :=
  Roundtrip.of_event rfl

theorem Roundtrip.queueEnable (q : Nat) : Roundtrip.Statement (.queueEnable q) :=
  Roundtrip.of_event rfl

theorem Roundtrip.queueDisable (q : Nat) : Roundtrip.Statement (.queueDisable q) :=
  Roundtrip.of_event rfl

theorem Roundtrip.doorbell (q : Nat) : Roundtrip.Statement (.doorbell q) :=
  Roundtrip.of_event rfl

theorem Roundtrip.launchTake (q : Nat) : Roundtrip.Statement (.launchTake q) :=
  Roundtrip.of_event rfl

theorem Roundtrip.groupMatch (q : Nat) (seq : Nat) (others : List Member) : Roundtrip.Statement (.groupMatch q seq others) :=
  Roundtrip.of_event rfl

theorem Roundtrip.placeLaunch (q : Nat) (seq : Nat) (sites : List Nat) : Roundtrip.Statement (.placeLaunch q seq sites) :=
  Roundtrip.of_event rfl

theorem Roundtrip.reservation (q : Nat) (seq : Nat) (dies : List Nat) : Roundtrip.Statement (.reservation q seq dies) :=
  Roundtrip.of_event rfl

theorem Roundtrip.allocDone (k : CtxKey) : Roundtrip.Statement (.allocDone k) :=
  Roundtrip.of_event rfl

theorem Roundtrip.tractStart (t : Nat) (peersReady : Bool) : Roundtrip.Statement (.tractStart t peersReady) :=
  Roundtrip.of_event rfl

theorem Roundtrip.quantumEnd (t : Nat) : Roundtrip.Statement (.quantumEnd t) :=
  Roundtrip.of_event rfl

theorem Roundtrip.switchOut (t : Nat) : Roundtrip.Statement (.switchOut t) :=
  Roundtrip.of_event rfl

theorem Roundtrip.tractSaved (t : Nat) : Roundtrip.Statement (.tractSaved t) :=
  Roundtrip.of_event rfl

theorem Roundtrip.switchIn (t : Nat) (sites : List Nat) : Roundtrip.Statement (.switchIn t sites) :=
  Roundtrip.of_event rfl

theorem Roundtrip.launchComplete (t : Nat) : Roundtrip.Statement (.launchComplete t) :=
  Roundtrip.of_event rfl

theorem Roundtrip.doneAdvance (q : Nat) : Roundtrip.Statement (.doneAdvance q) :=
  Roundtrip.of_event rfl

theorem Roundtrip.tractEnd (t : Nat) : Roundtrip.Statement (.tractEnd t) :=
  Roundtrip.of_event rfl

theorem Roundtrip.tdrainExpiry (t : Nat) : Roundtrip.Statement (.tdrainExpiry t) :=
  Roundtrip.of_event rfl

theorem Roundtrip.peerEndNews (gid : Word32) : Roundtrip.Statement (.peerEndNews gid) :=
  Roundtrip.of_event rfl

theorem Roundtrip.reissue (q : Nat) (seq : Nat) (sites : List Nat) : Roundtrip.Statement (.reissue q seq sites) :=
  Roundtrip.of_event rfl

theorem Roundtrip.grantTakeEffect (k : CtxKey) : Roundtrip.Statement (.grantTakeEffect k) :=
  Roundtrip.of_event rfl

theorem Roundtrip.budgetWindow (a : Arbiter) : Roundtrip.Statement (.budgetWindow a) :=
  Roundtrip.of_event rfl

theorem Roundtrip.budgetAdjust (die : Nat) (mw : Nat) : Roundtrip.Statement (.budgetAdjust die mw) :=
  Roundtrip.of_event rfl

theorem Roundtrip.coolantReport (r : Option Coolant) : Roundtrip.Statement (.coolantReport r) :=
  Roundtrip.of_event rfl

theorem Roundtrip.overcurrentCheck (die : Nat) (mw : Nat) : Roundtrip.Statement (.overcurrentCheck die mw) :=
  Roundtrip.of_event rfl

theorem Roundtrip.oclRelease (die : Nat) : Roundtrip.Statement (.oclRelease die) :=
  Roundtrip.of_event rfl

theorem Roundtrip.thermalTrip (site : Nat) (deg : BitVec 16) : Roundtrip.Statement (.thermalTrip site deg) :=
  Roundtrip.of_event rfl

theorem Roundtrip.tripRelease (site : Nat) (deg : BitVec 16) : Roundtrip.Statement (.tripRelease site deg) :=
  Roundtrip.of_event rfl

theorem Roundtrip.glenWindow (site : Nat) (dom : Nat) (step : Nat) (replays : Nat) : Roundtrip.Statement (.glenWindow site dom step replays) :=
  Roundtrip.of_event rfl

theorem Roundtrip.fenceSite (site : Nat) : Roundtrip.Statement (.fenceSite site) :=
  Roundtrip.of_event rfl

theorem Roundtrip.uncorrectableError (l : StoreLoc) : Roundtrip.Statement (.uncorrectableError l) :=
  Roundtrip.of_event rfl

theorem Roundtrip.linkWindow (edge : Nat) (rplA : Nat) (rplB : Nat) : Roundtrip.Statement (.linkWindow edge rplA rplB) :=
  Roundtrip.of_event rfl

theorem Roundtrip.retrainAttempt (edge : Nat) (modsA : Nat) (modsB : Nat) : Roundtrip.Statement (.retrainAttempt edge modsA modsB) :=
  Roundtrip.of_event rfl

theorem Roundtrip.routeResync (edge : Nat) : Roundtrip.Statement (.routeResync edge) :=
  Roundtrip.of_event rfl

theorem Roundtrip.ltoExpiry (edge : Nat) : Roundtrip.Statement (.ltoExpiry edge) :=
  Roundtrip.of_event rfl

theorem Roundtrip.dieLoss (die : Nat) : Roundtrip.Statement (.dieLoss die) :=
  Roundtrip.of_event rfl

theorem Roundtrip.portLoss (die : Nat) (p : Nat) : Roundtrip.Statement (.portLoss die p) :=
  Roundtrip.of_event rfl

theorem Roundtrip.portDown (die : Nat) (p : Nat) : Roundtrip.Statement (.portDown die p) :=
  Roundtrip.of_event rfl

theorem Roundtrip.channelLost (ch : Nat) : Roundtrip.Statement (.channelLost ch) :=
  Roundtrip.of_event rfl

theorem Roundtrip.powerOn (cooling : Cooling) : Roundtrip.Statement (.powerOn cooling) :=
  Roundtrip.of_event rfl

theorem Roundtrip.bootHeartbeatTimeout (die : Nat) : Roundtrip.Statement (.bootHeartbeatTimeout die) :=
  Roundtrip.of_event rfl

theorem Roundtrip.controllerSilent (die : Nat) (target : Nat) : Roundtrip.Statement (.controllerSilent die target) :=
  Roundtrip.of_event rfl

theorem Roundtrip.releasePerform (k : CtxKey) (i : Nat) : Roundtrip.Statement (.releasePerform k i) :=
  Roundtrip.of_event rfl

theorem Roundtrip.portUp (die : Nat) (p : Nat) : Roundtrip.Statement (.portUp die p) :=
  Roundtrip.of_event rfl

theorem Roundtrip.nop : Roundtrip.Statement (.nop) :=
  Roundtrip.of_fields rfl (fun _ => rfl) (fun _ => rfl)

theorem Roundtrip.invalidationComplete : Roundtrip.Statement (.invalidationComplete) :=
  Roundtrip.of_event rfl

theorem Roundtrip.arbitrate : Roundtrip.Statement (.arbitrate) :=
  Roundtrip.of_event rfl

theorem Roundtrip.powerLoss : Roundtrip.Statement (.powerLoss) :=
  Roundtrip.of_event rfl

theorem Roundtrip.bootStageAdvance : Roundtrip.Statement (.bootStageAdvance) :=
  Roundtrip.of_event rfl

theorem Roundtrip.imageVerified : Roundtrip.Statement (.imageVerified) :=
  Roundtrip.of_event rfl

theorem Roundtrip.handoverPoint : Roundtrip.Statement (.handoverPoint) :=
  Roundtrip.of_event rfl

theorem Roundtrip.handoverTimeout : Roundtrip.Statement (.handoverTimeout) :=
  Roundtrip.of_event rfl

theorem Roundtrip.heartbeat : Roundtrip.Statement (.heartbeat) :=
  Roundtrip.of_event rfl

theorem Roundtrip.rollback : Roundtrip.Statement (.rollback) :=
  Roundtrip.of_event rfl

theorem Roundtrip.steppeWrite : Roundtrip.Statement (.steppeWrite) :=
  Roundtrip.of_event rfl

theorem Roundtrip.expcapWindow : Roundtrip.Statement (.expcapWindow) :=
  Roundtrip.of_event rfl

theorem Roundtrip.overcurrentCapRestore : Roundtrip.Statement (.overcurrentCapRestore) :=
  Roundtrip.of_event rfl

theorem Roundtrip.overcurrentCapCut : Roundtrip.Statement (.overcurrentCapCut) :=
  Roundtrip.of_event rfl

theorem Roundtrip.fenceComplete : Roundtrip.Statement (.fenceComplete) :=
  Roundtrip.of_event rfl

end Sys2Proof.Laws
end

