-- ==== Sys2Proof/Safety.lean ====
section
/-! DEFINITION. What counts as a safe run, and the terms in which claims are stated: canonical memories, what two contexts
share, and the state in which a given context is at work. -/
namespace Sys2Proof.Machine
open Host

/-! ### Safe runs -/

/-- A slot instruction has a word; an event has none (Table 6.2). -/
def isSlot (i : Instr) : Bool := (encode i).isSome

/-- The agenda names no slot instruction: those are issued by bundles only (R129). -/
def State.eventsOnly (s : State) : Prop := ∀ i, Turn.event i ∈ s.agenda → isSlot i = false

/-- A run of n steps from s that meets no fault and no refusal. -/
def SafeRun (n : Nat) (s : State) : Prop := ∃ t, Host.Core.run Sys2Proof.core n s = .next t

/-! ### Canonical memories -/

/-- Every memory of a context is in canonical form. -/
def Ctx.memOk (c : Ctx) : Prop := c.lm.wf = true ∧ c.ts.wf = true ∧ c.as.wf = true ∧ c.istore.wf = true

/-- Every memory of the module is in canonical form. -/
def State.memOk (s : State) : Prop :=
  s.hbm.wf = true ∧ s.persist.flash.wf = true ∧ (∀ c ∈ s.ctxs, c.memOk) ∧ ∀ c, s.cur = some c → c.memOk

/-! ### A context at work -/

/-- s with context c at work. -/
def State.working (s : State) (c : Ctx) : State := { s with cur := some c }

/-- The registers that instructions name are equal (Table 6.3). -/
structure Ctx.SameRegs (c d : Ctx) : Prop where
  s : d.s = c.s
  a : d.a = c.a
  va : d.va = c.va
  vb : d.vb = c.vb
  p : d.p = c.p
  f : d.f = c.f
  b : d.b = c.b
  ft : d.ft = c.ft
  ma : d.ma = c.ma
  ch : d.ch = c.ch
  mcfg : d.mcfg = c.mcfg
  tabA : d.tabA = c.tabA
  tabB : d.tabB = c.tabB

/-- The control and status registers that an instruction or an event may write are equal (Table 7.18). -/
structure Ctx.SameCsrs (c d : Ctx) : Prop where
  mode : d.mode = c.mode
  events : d.events = c.events
  evmask : d.evmask = c.evmask
  fault : d.fault = c.fault
  srkey : d.srkey = c.srkey
  trapPc : d.trapPc = c.trapPc
  clock : d.clock = c.clock
  replays : d.replays = c.replays

/-- The bytes of LM, TS, AS and the instruction store, and the semaphores, are equal. -/
structure Ctx.SameStores (c d : Ctx) : Prop where
  lm : ∀ x, d.lm.byte x = c.lm.byte x
  ts : ∀ x, d.ts.byte x = c.ts.byte x
  as : ∀ x, d.as.byte x = c.as.byte x
  istore : ∀ x, d.istore.byte x = c.istore.byte x
  sems : d.sems = c.sems

/-- What identifies a context and what it was given at placement is equal (R29, R269). -/
structure Ctx.SameIdentity (c d : Ctx) : Prop where
  key : d.key = c.key
  site : d.site = c.site
  info : d.info = c.info
  part : d.part = c.part
  grant : d.grant = c.grant

end Sys2Proof.Machine
end

