-- ==== Sys2Proof/Certificates/Slice0/Obligations.lean ====
section
/-! DEFINITION. The statements for the provers. Slot instructions first, family by family; then what surrounds them (landing,
traps, faults, the sequence, decoding, steps); then the events; then frames, isolation and invariants. A statement about a
register result names the result put in flight with its bound; ResultsLandInOrder says when it reaches the register. -/
namespace Sys2Proof.Claims
open Sys2Proof.Machine

/-- The result of a slot instruction: in state s with context c at work, it puts value v in flight for d with bound l, and
does nothing else (R7, R10). -/
def Puts (s : State) (c : Ctx) (i : Instr) (d : Dest) (v l : Nat) : Prop :=
  exec i s = .next (s.working (c.push d v l))

/-- As Puts, with exception flags (R335). -/
def PutsFlags (s : State) (c : Ctx) (i : Instr) (d : Dest) (v l : Nat) (fl : Flags) : Prop :=
  exec i s = .next (s.working (c.pushF d v l fl))

/-- An immediate of n bits, sign-extended, or of n + 20 bits where an XIM lends the upper 20 (R132). -/
def widened (lent : Option (BitVec 20)) (n : Nat) (f : BitVec n) : Int :=
  match lent with
  | some h => sextInt (h.toNat * 2 ^ n + f.toNat) (n + 20)
  | none => sextInt f.toNat n

/-- A vector result: elements of width w, f where the governing predicate bit is set, the old ones elsewhere (R190). -/
def PutsElements (s : State) (c : Ctx) (i : Instr) (u : VFile) (vd : BitVec 5) (l w : Nat) (pg : PReg) (old : VReg)
    (f : Nat → Nat) : Prop :=
  ∃ v : VReg, exec i s = .next (s.working (c.push (.v u vd.toNat) v.toNat l)) ∧
    ∀ j, j < 2048 / w → el v j w = if gov pg j w then f j else el old j w

/-- A vector result with exception flags. -/
def PutsElementsFlags (s : State) (c : Ctx) (i : Instr) (u : VFile) (vd : BitVec 5) (l w : Nat) (pg : PReg) (old : VReg)
    (f : Nat → Nat × Flags) : Prop :=
  ∃ (v : VReg) (fl : Flags), exec i s = .next (s.working (c.pushF (.v u vd.toNat) v.toNat l fl)) ∧
    (∀ j, j < 2048 / w → el v j w = if gov pg j w then (f j).1 else el old j w) ∧
    ∀ n, n < 5 → (fl.getLsbD n = true ↔ ∃ j, j < 2048 / w ∧ gov pg j w = true ∧ (f j).2.getLsbD n = true)

/-- A predicate result: bit j of pd for every byte j of a register (R189). -/
def PutsPredicate (s : State) (c : Ctx) (i : Instr) (pd : BitVec 5) (l : Nat) (f : Nat → Bool) : Prop :=
  ∃ p : PReg, exec i s = .next (s.working (c.push (.p pd.toNat) p.toNat l)) ∧ ∀ j, j < 256 → p.getLsbD j = f j

/-- A load: as Puts with bound 6. Until it lands, what it read stays with the result: n bytes at each offset (R91). -/
def PutsLoad (s : State) (c : Ctx) (i : Instr) (d : Dest) (offs : List Nat) (n v : Nat) : Prop :=
  ∃ x : LoadSrc, exec i s = .next (s.working ((c.push d v 6).loadedFrom x)) ∧ x.offs = offs ∧ x.n = n ∧
    x.bound = c.issued + 6 ∧ x.bytes = offs.flatMap fun o => c.lm.read o n

/-- An operation of the Q or N slot takes entry e of its engine. -/
def Takes (s : State) (c : Ctx) (e : Nat) (i : Instr) (o : Op) : Prop :=
  exec i s = .next (s.working { c with ops := c.ops ++ [{ o with e := e }] })

end Sys2Proof.Claims

open Sys2Proof Sys2Proof.Machine Sys2Proof.Claims

/-! ### The S slot -/

/-- R174, R175 and Table 7.12: value and bound of every register ALU instruction, under a true guard. -/
def Obligations.RegisterAluResults : Prop :=
  ∀ (s : State) (c : Ctx) (g : Guard) (sd sa sb : BitVec 6), s.cur = some c → c.guardOk g = true →
    let a := (c.rs sa).toNat
    let b := (c.rs sb).toNat
    let x := (c.rs sa).toInt
    let y := (c.rs sb).toInt
    let put := fun (i : Instr) (v l : Nat) => Puts s c i (.s sd.toNat) v l
    put (.add g sd sa sb) ((a + b) % 2 ^ 64) 1 ∧
    put (.sub g sd sa sb) ((a + 2 ^ 64 - b) % 2 ^ 64) 1 ∧
    put (.mul g sd sa sb) (a * b % 2 ^ 64) 3 ∧
    put (.mulh g sd sa sb) (wrap (x * y / 2 ^ 64) 64) 3 ∧
    put (.mulhz g sd sa sb) (a * b / 2 ^ 64) 3 ∧
    put (.div g sd sa sb) (if b = 0 then 2 ^ 64 - 1 else wrap (x.tdiv y) 64) 24 ∧
    put (.divz g sd sa sb) (if b = 0 then 2 ^ 64 - 1 else a / b) 24 ∧
    put (.rem g sd sa sb) (if b = 0 then a else wrap (x.tmod y) 64) 24 ∧
    put (.remz g sd sa sb) (if b = 0 then a else a % b) 24 ∧
    put (.and g sd sa sb) (a &&& b) 1 ∧
    put (.or g sd sa sb) (a ||| b) 1 ∧
    put (.xor g sd sa sb) (a ^^^ b) 1 ∧
    put (.shl g sd sa sb) (a * 2 ^ (b % 64) % 2 ^ 64) 1 ∧
    put (.shr g sd sa sb) (a / 2 ^ (b % 64)) 1 ∧
    put (.sra g sd sa sb) (wrap (x / 2 ^ (b % 64)) 64) 1 ∧
    put (.min g sd sa sb) (wrap (min x y) 64) 1 ∧
    put (.max g sd sa sb) (wrap (max x y) 64) 1 ∧
    put (.minz g sd sa sb) (min a b) 1 ∧
    put (.maxz g sd sa sb) (max a b) 1

/-- R176 and R177: the immediate ALU instructions, MOVI and MOVHI, with the bits that an XIM lends. -/
def Obligations.ImmediateAluResults : Prop :=
  ∀ (s : State) (c : Ctx) (g : Guard) (sd sa : BitVec 6) (imm : BitVec 8) (k : BitVec 14), s.cur = some c →
    c.guardOk g = true →
    let a := (c.rs sa).toNat
    let v := widened (c.lentTo 1) 8 imm
    let m := widened (c.lentTo 1) 14 k
    let put := fun (i : Instr) (v : Nat) => Puts s c i (.s sd.toNat) v 1
    put (.addi g sd sa imm) (wrap (a + v) 64) ∧
    put (.andi g sd sa imm) (a &&& wrap v 64) ∧
    put (.ori g sd sa imm) (a ||| wrap v 64) ∧
    put (.xori g sd sa imm) (a ^^^ wrap v 64) ∧
    put (.shli g sd sa imm) (a * 2 ^ imm.toNat % 2 ^ 64) ∧
    put (.shri g sd sa imm) (a / 2 ^ imm.toNat) ∧
    put (.srai g sd sa imm) (wrap ((c.rs sa).toInt / 2 ^ imm.toNat) 64) ∧
    put (.movi g sd k) (wrap m 64) ∧
    put (.movhi g sd k) (wrap m 34 * 2 ^ 30 + (c.rs sd).toNat % 2 ^ 30)

/-- R178 and Table 7.14: counts, bit-field extract and bit-field insert. -/
def Obligations.BitInstructionResults : Prop :=
  ∀ (s : State) (c : Ctx) (g : Guard) (sd sa sb : BitVec 6), s.cur = some c → c.guardOk g = true →
    let a := (c.rs sa).toNat
    let lo := (c.rs sb).toNat % 64
    let wid := (c.rs sb).toNat / 256 % 128
    (∃ n, Puts s c (.clz g sd sa) (.s sd.toNat) n 1 ∧ n ≤ 64 ∧ a < 2 ^ (64 - n) ∧ (n < 64 → 2 ^ (63 - n) ≤ a)) ∧
    Puts s c (.popc g sd sa) (.s sd.toNat) ((List.range 64).countP fun j => a.testBit j) 1 ∧
    Puts s c (.bfx g sd sa sb) (.s sd.toNat)
      (if wid = 0 ∨ 64 < wid then 0
      else if (c.rs sb).getLsbD 16 = true then wrap (sextInt (a / 2 ^ lo % 2 ^ wid) wid) 64
      else a / 2 ^ lo % 2 ^ wid) 1 ∧
    ∃ v : Word, Puts s c (.bfi g sd sa sb) (.s sd.toNat) v.toNat 1 ∧
      ∀ j, j < 64 → v.getLsbD j =
        if wid ≤ 64 ∧ lo ≤ j ∧ j < lo + wid then (c.rs sa).getLsbD (j - lo) else (c.rs sd).getLsbD j

/-- R179 to R181: comparison of integers into a flag, flag logic, and selection. -/
def Obligations.FlagInstructionResults : Prop :=
  ∀ (s : State) (c : Ctx) (g : Guard) (fd fa fb fc : BitVec 3) (sd sa sb : BitVec 6) (sl : BitVec 5) (imm : BitVec 7)
    (tt : BitVec 4), s.cur = some c → c.guardOk g = true →
    let test := fun (cc : Cc) (x y : Int) (a b : Nat) =>
      match cc with
      | .eq => decide (a = b)
      | .ne => decide (a ≠ b)
      | .lt => decide (x < y)
      | .ge => decide (y ≤ x)
      | .le => decide (x ≤ y)
      | .gt => decide (y < x)
      | .ltz => decide (a < b)
      | .gez => decide (b ≤ a)
      | .lez => decide (a ≤ b)
      | .gtz => decide (b < a)
      | .tst => decide (a &&& b ≠ 0)
      | .ntst => decide (a &&& b = 0)
      | .un | .ord => false
    let v := widened (c.lentTo 1) 7 imm
    (∀ cc, WellFormed.ccInt cc = true →
      Puts s c (.cmp g fd cc sa sb) (.f fd.toNat)
        (test cc (c.rs sa).toInt (c.rs sb).toInt (c.rs sa).toNat (c.rs sb).toNat).toNat 1 ∧
      Puts s c (.cmpi g fd cc sa imm) (.f fd.toNat) (test cc (c.rs sa).toInt v (c.rs sa).toNat (wrap v 64)).toNat 1) ∧
    Puts s c (.flop g fd fa fb tt) (.f fd.toNat)
      (tt.getLsbD (2 * (c.rf fa).toNat + (c.rf fb).toNat)).toNat 1 ∧
    Puts s c (.sel g sd sa sl fc) (.s sd.toNat)
      (if c.rf fc = true then (c.rs sa).toNat else (c.rs (sl.zeroExtend 6)).toNat) 1

/-- R182, R183, R179 and R335: the scalar FP32 instructions put the exact result, rounded once, in flight with the bounds of
Table 7.16 and with its exception flags; a comparison with a NaN holds for NE and UN only. -/
def Obligations.ScalarFpResults : Prop :=
  ∀ (s : State) (c : Ctx) (g : Guard) (sd sa sb : BitVec 6) (d5 a5 b5 c5 : BitVec 5) (fd : BitVec 3),
    s.cur = some c → c.guardOk g = true →
    let x := c.f32 sa
    let y := c.f32 sb
    let put := fun (i : Instr) (d : Nat) (r : Nat × Flags) (l : Nat) => PutsFlags s c i (.s d) (r.1 % 2 ^ 32) l r.2
    put (.fadd g sd sa sb) sd.toNat (arith .f32 c.round [x, y] (x.add y)) 4 ∧
    put (.fsub g sd sa sb) sd.toNat (arith .f32 c.round [x, y] (x.add y.neg)) 4 ∧
    put (.fmul g sd sa sb) sd.toNat (arith .f32 c.round [x, y] (x.mul y)) 4 ∧
    put (.fma g d5 a5 b5 c5) d5.toNat
      (arith .f32 c.round [c.f32 (a5.zeroExtend 6), c.f32 (b5.zeroExtend 6), c.f32 (c5.zeroExtend 6)]
        (((c.f32 (a5.zeroExtend 6)).mul (c.f32 (b5.zeroExtend 6))).add (c.f32 (c5.zeroExtend 6)))) 4 ∧
    put (.fdiv g sd sa sb) sd.toNat (fdiv c.round x y) 24 ∧
    put (.fsqrt g sd sa) sd.toNat (fsqrt c.round x) 24 ∧
    (∀ cc, Puts s c (.fcmp g fd cc sa sb) (.f fd.toNat) (fpTest cc x y).toNat 4) ∧
    (∀ cc, WellFormed.ccFp cc = true → (x.isNan || y.isNan) = true → fpTest cc x y = (cc == .ne || cc == .un)) ∧
    ∀ t d rm, PutsFlags s c (.fcvt g sd sa t d rm) (.s sd.toNat)
      (scvConvert d (rmRound rm) c.satf8 (scvRead t (c.rs sa))).1 4
      (scvConvert d (rmRound rm) c.satf8 (scvRead t (c.rs sa))).2

/-- R36, R112, R184, R185, R187 and R334: copies between files, reads and writes of control and status registers, and reads of
semaphores, outside DET mode; and what a CSRW has written once its bundle has issued: of MODE the fields of MODE.ARITH, EVMASK,
the fields of FAULT that are not reserved, and SRKEY; a read-only number keeps its value. The new SATF8 reaches the queued M
instructions of earlier bundles, and not those of the CSRW's own. A reading of TEMP is a free value (assumption 5). -/
def Obligations.MoveAndSpecialRegisterResults : Prop :=
  ∀ (s : State) (c : Ctx) (g : Guard) (sd sa : BitVec 6) (ad aa vd : BitVec 5) (vf : VFile) (n sem : BitVec 8),
    s.cur = some c → c.guardOk g = true →
    Puts s c (.movsa g ad sa) (.a ad.toNat) (c.rs sa).toNat 2 ∧
    Puts s c (.movas g sd aa) (.s sd.toNat) (c.ra aa).toNat 2 ∧
    (∃ v : VReg, Puts s c (.movsv g vf vd sa) (.v vf vd.toNat) v.toNat 2 ∧
      ∀ j, j < 32 → el v j 64 = (c.rs sa).toNat) ∧
    (n.toNat ≤ 0x10 → n.toNat ≠ 0x0B → (c.det = false ∨ csrTrapped n.toNat = false) →
      Puts s c (.csrr g sd n) (.s sd.toNat) (csrValue s c 0 n.toNat % 2 ^ 64) 1) ∧
    (n.toNat = 0x0B → c.det = false → ∃ v : BitVec 16, exec (.csrr g sd n) s =
      .next { s with cur := some (c.push (.s sd.toNat) v.toNat 1), fresh := s.fresh + 1 }) ∧
    Puts s c (.csrw g sa n) (.csr n.toNat) (c.rs sa).toNat 1 ∧
    (c.inflight = [] → ∀ m,
      let d := (c.push (.csr n.toNat) (c.rs sa).toNat 1).retire m
      let v := c.rs sa
      d = { c with
        issued := c.issued + 1, mode := d.mode, evmask := d.evmask, fault := d.fault, srkey := d.srkey
        mq := if n.toNat = 0x07 then
            c.mq.map fun (q : MEntry) => if q.bundle < c.issued then { q with satNext := v.getLsbD 9 } else q
          else c.mq } ∧
      (∀ j, j < 64 → d.mode.getLsbD j =
        if n.toNat = 0x07 ∧ 8 ≤ j ∧ j ≤ 10 then v.getLsbD j else c.mode.getLsbD j) ∧
      (∀ j, j < 64 → d.evmask.getLsbD j =
        if n.toNat = 0x0D then decide (j < 5) && v.getLsbD j else c.evmask.getLsbD j) ∧
      (∀ j, j < 64 → d.fault.getLsbD j =
        if n.toNat = 0x0E then
          !(j == 8 || j == 9 || decide (51 ≤ j ∧ j ≤ 58) || (j == 49 && c.part.lm == 0)) && v.getLsbD j
        else c.fault.getLsbD j) ∧
      d.srkey = if n.toNat = 0x0F then v else c.srkey) ∧
    (sem.toNat < c.sems.length → c.poisonSem.contains sem.toNat = false → c.acqPending = false → c.det = false →
      c.relPending sem.toNat = false →
      Puts s c (.semrd g sd sem) (.s sd.toNat) (c.semCount sem.toNat).toNat 1)

/-! ### The B slot -/

/-- R129, R132 and R151 to R153: NOP, lent bits, branch targets, and transfers with two delay bundles still to issue. -/
def Obligations.ControlTransferResults : Prop :=
  ∀ (s : State) (c : Ctx) (g : Guard) (bd bt tgt : BitVec 3) (sa : BitVec 6) (off : BitVec 17) (imm : BitVec 20),
    s.cur = some c →
    exec .nop s = .next s ∧
    (∃ d, exec (.xim tgt imm) s = .next (s.working d) ∧ d.lentTo tgt.toNat = some imm ∧ d.inflight = c.inflight ∧
      d.xfer = c.xfer ∧ c.SameRegs d ∧ c.SameCsrs d ∧ c.SameStores d) ∧
    (c.guardOk g = true →
      Puts s c (.bpre g bd off) (.b bd.toNat) (((c.pc.toNat : Int) + 32 * off.toInt) % 2 ^ 32).toNat 1 ∧
      Puts s c (.bpres g bd sa) (.b bd.toNat) ((c.rs sa).toNat % 2 ^ 32) 1) ∧
    (c.guardOk g = true → c.inDelay = false →
      ((c.rb bt).toNat % 32 = 0 → exec (.br g bt) s = .next (s.working { c with xfer := some ⟨c.rb bt, 2⟩ })) ∧
      ((c.rb 7).toNat % 32 = 0 → exec (.ret g) s = .next (s.working { c with xfer := some ⟨c.rb 7, 2⟩ })) ∧
      ((c.rb bt).toNat % 32 = 0 → c.loops = [] → c.issue.raised ≠ .fault →
        exec (.call g bt) s =
          .next (s.working (({ c with xfer := some ⟨c.rb bt, 2⟩ } : Ctx).push (.b 7) ((c.pc.toNat + 96) % 2 ^ 32) 1))))

/-- R155, R156 and R158: LOOP arms a loop over the bundles that follow, with count 0 it skips the body, and REPM leaves a
count pending. -/
def Obligations.LoopAndRepetitionResults : Prop :=
  ∀ (s : State) (c : Ctx) (g : Guard) (len sa : BitVec 6) (cnt : BitVec 13) (k : BitVec 19), s.cur = some c →
    c.guardOk g = true →
    let last := c.pc.toNat + 32 * (len.toNat + 1)
    let armed := fun (n : Nat) => s.working { c with loops := ⟨c.pc + 32, BitVec.ofNat 32 last, n⟩ :: c.loops }
    let free := c.inDelay = false ∧ c.loops.length < 2 ∧ ∀ l ∈ c.loops, last ≤ l.last.toNat
    let n := (c.rs sa).toNat % 2 ^ 33
    let r := (c.rs sa).toNat % 2 ^ 39
    (0 < cnt.toNat → free → exec (.loop g len cnt) s = .next (armed cnt.toNat)) ∧
    (0 < n → free → exec (.loopReg g len sa) s = .next (armed n)) ∧
    (cnt.toNat = 0 → ∃ d, exec (.loop g len cnt) s = .next (s.working d) ∧
      d.goOn.pc = BitVec.ofNat 32 (last + 32) ∧ d.loops = c.loops) ∧
    (n = 0 → ∃ d, exec (.loopReg g len sa) s = .next (s.working d) ∧
      d.goOn.pc = BitVec.ofNat 32 (last + 32) ∧ d.loops = c.loops) ∧
    (0 < k.toNat → c.repm = none → exec (.repm g k) s = .next (s.working { c with repm := some k.toNat })) ∧
    (0 < r → c.repm = none → exec (.repmReg g sa) s = .next (s.working { c with repm := some r })) ∧
    (k.toNat = 0 → exec (.repm g k) s = .next s) ∧ (r = 0 → exec (.repmReg g sa) s = .next s)

/-- R162 to R164 and R341: waits that retire by their count, with and without subtraction, or in fault by a mark, and a wait
that cannot retire; increments and sets. What follows a queued SIG of an earlier bundle on the same semaphore comes behind it:
a wait whose count is reached waits, a relaxed SIG is queued, and a retirement by marks does not wait (assumption 15 of the
model, DEDUCED). -/
def Obligations.SemaphoreResults : Prop :=
  ∀ (s : State) (c : Ctx) (g : Guard) (sem n inc : BitVec 8) (v : BitVec 12) (acq rel : Bool) (sc : Scope) (x : Sem),
    s.cur = some c → c.guardOk g = true → c.sems[sem.toNat]? = some x → c.poisonSem.contains sem.toNat = false →
    c.acqPending = false →
    let waits := fun (i : Instr) => ∃ d, exec i s = .next (s.working d) ∧ d.status = .waiting ∧ d.issue.held = true ∧
      d.sems = c.sems
    (n.toNat ≤ x.count.toNat → c.relPending sem.toNat = false →
      exec (.wait g sem n acq) s = .next (s.working { c with fault := setBit c.fault 50 false }) ∧
      ∃ d, exec (.waitd g sem n acq) s = .next (s.working d) ∧
        d.sems = c.sems.set sem.toNat { x with count := x.count - n.zeroExtend 32 } ∧ d.issue.held = c.issue.held) ∧
    ((x.count.toNat < n.toNat ∧ x.marks = 0) ∨ (n.toNat ≤ x.count.toNat ∧ c.relPending sem.toNat = true) →
      waits (.wait g sem n acq) ∧ waits (.waitd g sem n acq)) ∧
    (x.count.toNat < n.toNat → x.marks ≠ 0 →
      exec (.wait g sem n acq) s = .next (s.working { c with fault := setBit c.fault 50 true }) ∧
      exec (.waitd g sem n acq) s = .next (s.working { c with fault := setBit c.fault 50 true })) ∧
    (c.relPending sem.toNat = false → exec (.sig g sem inc sc false) s =
      .next (s.working { c with sems := c.sems.set sem.toNat { x with count := x.count + inc.zeroExtend 32 } })) ∧
    (rel = true ∨ c.relPending sem.toNat = true →
      ∃ d, exec (.sig g sem inc sc rel) s = .next (s.working d) ∧ d.sems = c.sems ∧
        d.rels = c.rels ++ [⟨sem.toNat, inc.zeroExtend 32, sc, c.issued, rel⟩]) ∧
    (c.relPending sem.toNat = false →
      exec (.semset g sem v) s =
        .next (s.working { c with sems := c.sems.set sem.toNat { x with count := v.zeroExtend 32 } }))

/-- R100, R101, R166 and R341: EVWAIT retires when a bit of its mask is set and EVCLR clears bits; FENCE retires when every
earlier access has been performed at its scope, and the results of loads and LATOMs of earlier bundles land then, while other
results in flight stay (assumption 17 of the model, DEDUCED); FNI fills its token, and FNW retires when every captured write is
performed at the token's scope, with the recovery bit of R341 cleared, and waits while one is not. -/
def Obligations.EventAndFenceResults : Prop :=
  ∀ (s : State) (c : Ctx) (g : Guard) (m : BitVec 16) (ft : BitVec 3) (sc : Scope), s.cur = some c →
    c.guardOk g = true →
    ((∃ j, j < 16 ∧ m.getLsbD j = true ∧ c.events.getLsbD j = true) → exec (.evwait g m) s = .next s) ∧
    (∃ d, exec (.evclr g m) s = .next (s.working d) ∧ d.evmask = c.evmask ∧ d.fault = c.fault ∧
      ∀ j, j < 64 → d.events.getLsbD j = (c.events.getLsbD j && !m.getLsbD j)) ∧
    ((∀ o ∈ c.ops, c.issued ≤ o.origin ∨ o.doneAt sc = true) → (∀ e ∈ c.mq, c.issued ≤ e.bundle) →
      (∀ r ∈ c.rels, c.issued ≤ r.bundle) → (∀ h, c.latom = some h → c.issued ≤ h.bundle) →
      ∃ d, exec (.fence g sc) s = .next (s.working d) ∧ d.issue.held = c.issue.held ∧ d.status = c.status ∧
        (∀ e ∈ d.inflight, e.fresh = true ∨ e.held = true ∨ e.load = none) ∧
        ∀ e ∈ c.inflight, e.load = none → e ∈ d.inflight) ∧
    ((∃ o ∈ c.ops, o.origin < c.issued ∧ o.doneAt sc = false) →
      ∃ d, exec (.fence g sc) s = .next (s.working d) ∧ d.issue.held = true ∧ d.status = .waiting) ∧
    (∃ d, exec (.fni g ft sc) s = .next (s.working d) ∧ d.rft ft = ⟨some c.issued, sc⟩ ∧
      (∀ j, j ≠ ft → d.rft j = c.rft j) ∧ d.ops = c.ops) ∧
    ((∀ o ∈ c.ops, ∀ n, (c.rft ft).upto = some n → o.bundle ≤ n → o.writesOut = true →
        o.writesDone (c.rft ft).scope = true) →
      exec (.fnw g ft) s = .next (s.working { c with fault := setBit c.fault 50 false })) ∧
    ((∀ o ∈ c.ops, o.cut = none) →
      (∃ o ∈ c.ops, ∃ n, (c.rft ft).upto = some n ∧ o.bundle ≤ n ∧ o.writesOut = true ∧
        o.writesDone (c.rft ft).scope = false) →
      ∃ d, exec (.fnw g ft) s = .next (s.working d) ∧ d.issue.held = true ∧ d.status = .waiting)

/-- R52 and R168 to R172: TRAP ends the context with its code, TRET leaves the DET handler, SYS makes its request, YIELD is
noted, and EXIT ends the context's issue, behind a held LATOM of an earlier bundle (R40, R241). -/
def Obligations.TrapAndExitResults : Prop :=
  ∀ (s : State) (c : Ctx) (g : Guard) (code : BitVec 16) (sv : BitVec 6), s.cur = some c → c.guardOk g = true →
    (c.fatal = none → ∃ d, exec (.trap g code) s = .next (s.working d) ∧ d.trapCode = code ∧
      d.fatal = some ⟨0x0C, 1, 0, code.toNat⟩ ∧ d.issue.raised = .fault) ∧
    (c.inDelay = false → c.indet = true →
      ∃ d, exec (.tret g sv) s = .next (s.working d) ∧ d.goOn.pc = c.trapPc ∧ d.xfer = c.aside ∧ d.indet = false ∧
        d.tretVal.map Prod.fst = some (c.rs sv)) ∧
    exec (.sys g code) s =
      .next (s.working { c with status := .waiting, sys := some ⟨code, c.rs 60, c.rs 61, false⟩ }) ∧
    exec (.yield g) s = .next (s.working { c with yielded := c.yielded || (!c.express && c.preempt) }) ∧
    ((∀ o ∈ c.ops, o.cut = none) →
      ((∀ h, c.latom = some h → c.issued ≤ h.bundle) → ∃ d, exec (.exit g) s = .next (s.working d) ∧ d.status = .exited ∧
        d.loops = [] ∧ d.xfer = none ∧ d.repm = none ∧ d.fatal = c.fatal ∧ ∀ e ∈ d.inflight, e.held = true) ∧
      ∀ h, c.latom = some h → h.bundle < c.issued →
        exec (.exit g) s = .next (s.working { c with issue := { c.issue with held := true } }))

/-! ### The VA and VB slots -/

/-- R199, R200 and R203: the byte instructions, VSPLAT and VXF, element by element. VSEL writes every byte. -/
def Obligations.VectorByteResults : Prop :=
  ∀ (s : State) (c : Ctx) (u : VFile) (g : Guard) (vd va vb pg : BitVec 5) (imm : BitVec 10), s.cur = some c →
    c.guardOk g = true →
    let old := c.rv u vd
    let a := fun j => el (c.rv u va) j 8
    let b := fun j => el (c.rv u vb) j 8
    let put := fun (i : Instr) (old : VReg) (f : Nat → Nat) => PutsElements s c i u vd 2 8 (c.rp pg) old f
    put (.vand u g vd va vb pg) old (fun j => a j &&& b j) ∧
    put (.vor u g vd va vb pg) old (fun j => a j ||| b j) ∧
    put (.vxor u g vd va vb pg) old (fun j => a j ^^^ b j) ∧
    put (.vmov u g vd va pg) old a ∧
    put (.vsel u g vd va vb pg) (c.rv u vb) a ∧
    put (.vxf u g vd va pg) old (fun j => el (c.rv (otherFile u) va) j 8) ∧
    PutsElements s c (.vsplat u g vd imm pg) u vd 2 32 (c.rp pg) old
      (fun _ => wrap (widened (c.lentTo (unitSlot u)) 10 imm) 32)

/-- R192 and Table 8.3: the integer vector instructions on 8, 16 and 32-bit elements, modulo 2^w. -/
def Obligations.VectorIntegerResults : Prop :=
  ∀ (s : State) (c : Ctx) (u : VFile) (g : Guard) (t : IntTy) (vd va vb pg : BitVec 5), s.cur = some c →
    c.guardOk g = true → WellFormed.narrow t = true →
    let w := itWidth t
    let a := fun j => el (c.rv u va) j w
    let b := fun j => el (c.rv u vb) j w
    let x := fun j => itVal t (a j)
    let y := fun j => itVal t (b j)
    let put := fun (i : Instr) (f : Nat → Nat) => PutsElements s c i u vd 2 w (c.rp pg) (c.rv u vd) f
    put (.vadd u g t vd va vb pg) (fun j => (a j + b j) % 2 ^ w) ∧
    put (.vsub u g t vd va vb pg) (fun j => (a j + 2 ^ w - b j) % 2 ^ w) ∧
    put (.vmul u g t vd va vb pg) (fun j => a j * b j % 2 ^ w) ∧
    put (.vmulh u g t vd va vb pg) (fun j => wrap (x j * y j / 2 ^ w) w) ∧
    put (.vmin u g t vd va vb pg) (fun j => wrap (min (x j) (y j)) w) ∧
    put (.vmax u g t vd va vb pg) (fun j => wrap (max (x j) (y j)) w) ∧
    put (.vshl u g t vd va vb pg) (fun j => a j * 2 ^ (b j % w) % 2 ^ w) ∧
    put (.vshr u g t vd va vb pg) (fun j => a j / 2 ^ (b j % w)) ∧
    put (.vsra u g t vd va vb pg) (fun j => wrap (sextInt (a j) w / 2 ^ (b j % w)) w) ∧
    (WellFormed.sNarrow t = true → put (.vabs u g t vd va pg) (fun j => (x j).natAbs % 2 ^ w))

/-- R196 to R198, R200 to R202 and R204: comparison into predicates, indices, transposition, permutation, moves to s
registers, and the predicate instructions. -/
def Obligations.VectorMoveAndPredicateResults : Prop :=
  ∀ (s : State) (c : Ctx) (u : VFile) (g : Guard) (t : IntTy) (vd va vb pg pd pa pb : BitVec 5) (imm : BitVec 10)
    (sd : BitVec 6) (lane : BitVec 8) (cc : Cc) (tt : BitVec 4) (n : BitVec 9) (fd : BitVec 3), s.cur = some c →
    c.guardOk g = true → WellFormed.narrow t = true →
    let w := itWidth t
    let a := fun j => el (c.rv u va) j w
    let b := fun j => el (c.rv u vb) j w
    (WellFormed.ccVec cc = true →
      PutsPredicate s c (.vcmp u g t pd va vb cc) pd 2 (fun j =>
        intTest cc (itSigned t) w (a (8 * j / w)) (b (8 * j / w)))) ∧
    PutsElements s c (.viota u g t vd imm pg) u vd 2 w (c.rp pg) (c.rv u vd)
      (fun j => wrap (widened (c.lentTo (unitSlot u)) 10 imm + j) w) ∧
    PutsElements s c (.vtrn u g t vd va vb pg) u vd 2 w (c.rp pg) (c.rv u vd)
      (fun j => if j % 2 = 0 then a j else b (j - 1)) ∧
    PutsElements s c (.vperm u g t vd va vb pg) u vd 2 w (c.rp pg) (c.rv u vd) (fun j => a (b j % (2048 / w))) ∧
    Puts s c (.vmovs u g t sd va lane) (.s sd.toNat) (wrap (itVal t (a lane.toNat)) 64) 2 ∧
    PutsPredicate s c (.plogic u g pd pa pb tt) pd 2 (fun j =>
      tt.getLsbD (2 * ((c.rp pa).getLsbD j).toNat + ((c.rp pb).getLsbD j).toNat)) ∧
    PutsPredicate s c (.pset u g pd n) pd 2 (fun j => decide (j < n.toNat)) ∧
    Puts s c (.vany u g fd pa) (.f fd.toNat) (decide (∃ j : Fin 256, (c.rp pa).getLsbD j.val = true)).toNat 2 ∧
    Puts s c (.vall u g fd pa) (.f fd.toNat) (decide (∀ j : Fin 256, (c.rp pa).getLsbD j.val = true)).toNat 2

/-- R193, R194, R196, R335 and Table 8.4: the floating-point vector instructions: each active element is the exact result
rounded once, and the exception flags of active elements are collected. -/
def Obligations.VectorFpResults : Prop :=
  ∀ (s : State) (c : Ctx) (u : VFile) (g : Guard) (t : FpTy) (vd va vb pg pd : BitVec 5) (cc : Cc), s.cur = some c →
    c.guardOk g = true → WellFormed.wide t = true →
    let w := t.width
    let x := fun j => t.val (el (c.rv u va) j w)
    let y := fun j => t.val (el (c.rv u vb) j w)
    let z := fun j => t.val (el (c.rv u vd) j w)
    let a := fun j => el (c.rv u va) j w
    let b := fun j => el (c.rv u vb) j w
    let put := fun (i : Instr) (f : Nat → Nat × Flags) =>
      PutsElementsFlags s c i u vd 4 w (c.rp pg) (c.rv u vd) fun j => ((f j).1 % 2 ^ w, (f j).2)
    put (.vfadd u g t vd va vb pg) (fun j => arith t c.round [x j, y j] ((x j).add (y j))) ∧
    put (.vfsub u g t vd va vb pg) (fun j => arith t c.round [x j, y j] ((x j).add (y j).neg)) ∧
    put (.vfmul u g t vd va vb pg) (fun j => arith t c.round [x j, y j] ((x j).mul (y j))) ∧
    put (.vfma u g t vd va vb pg) (fun j => arith t c.round [x j, y j, z j] (((x j).mul (y j)).add (z j))) ∧
    put (.vfnma u g t vd va vb pg) (fun j => arith t c.round [x j, y j, z j] (((x j).mul (y j)).neg.add (z j))) ∧
    put (.vfmin u g t vd va vb pg) (fun j =>
      (if (x j).isNan || (y j).isNan then t.nanCode else if fpBelow (x j) (y j) then a j else b j, 0)) ∧
    put (.vfmax u g t vd va vb pg) (fun j =>
      (if (x j).isNan || (y j).isNan then t.nanCode else if fpBelow (x j) (y j) then b j else a j, 0)) ∧
    put (.vfsgn u g t vd va vb pg) (fun j =>
      (if (x j).isNan then t.nanCode
      else a j % 2 ^ (w - 1) + (if (y j).isNan then 0 else b j / 2 ^ (w - 1) % 2) * 2 ^ (w - 1), 0)) ∧
    (WellFormed.ccFp cc = true →
      PutsPredicate s c (.vfcmp u g t pd va vb cc) pd 4 (fun j => fpTest cc (x (8 * j / w)) (y (8 * j / w))))

/-- R195 and R205 to R210: the special functions, reduction, combination, conversion and quantisation, with the bounds of
their rules. VRED leaves +0 in elements 1 to 63; VCOMB adds where both parts are present, keeps the one that is, and marks what
is present; a VCVT keeps the bits of vd above its results; and a VQNT gives each block of 16 elements the scale 2^X that its
greatest active element asks for, and rounds the elements divided by it. -/
def Obligations.VectorConversionResults : Prop :=
  ∀ (s : State) (c : Ctx) (u : VFile) (g : Guard) (vd va vb pg : BitVec 5) (fn : Sfu) (d t : CvTy) (rm : Rm) (q : FpTy),
    s.cur = some c → c.guardOk g = true →
    let act := fun j => gov (c.rp pg) j 32
    let up := fun j => gov (c.rp (pg + 1)) j 32
    let a := fun j => el (c.rv u va) j 32
    let b := fun j => el (c.rv u vb) j 32
    let x := fun j => FpTy.f32.val (a j)
    PutsElementsFlags s c (.vsfu u g fn vd va pg) u vd 8 32 (c.rp pg) (c.rv u vd)
      (fun j => ((sfu fn (FpTy.f32.val (el (c.rv u va) j 32))).1 % 2 ^ 32, (sfu fn (FpTy.f32.val (el (c.rv u va) j 32))).2)) ∧
    (∃ v : VReg, ∃ fl, PutsFlags s c (.vred u g vd va pg) (.v u vd.toNat) v.toNat 6 fl ∧
      (∀ j, 0 < j → j < 64 → el v j 32 = 0) ∧
      el v 0 32 = (treeOf add32 (fun j => if act j then some (canon32 (el (c.rv u va) j 32)) else none) 6 0).getD 0 % 2 ^ 32) ∧
    (∃ (v : VReg) (p : PReg) (fl : Flags), exec (.vcomb u g vd va vb pg) s =
        .next (s.working ((c.pushF (.v u vd.toNat) v.toNat 4 fl).push (.p pg.toNat) p.toNat 4)) ∧
      (∀ j, j < 64 → ∀ k, k < 4 → p.getLsbD (4 * j + k) = (act j || up j)) ∧
      ∀ j, j < 64 → el v j 32 = (if act j = true ∧ up j = true then add32 (a j) (b j)
        else if act j = true then canon32 (a j) else if up j = true then canon32 (b j) else 0) % 2 ^ 32) ∧
    (rm ≠ .sr → ∃ v : VReg, ∃ fl, PutsFlags s c (.vcvt u g d t rm vd va pg) (.v u vd.toNat) v.toNat 4 fl ∧
      let w := max (cvWidth d) (cvWidth t)
      (∀ j, j < 2048 / w → el v j (cvWidth d) =
        if gov (c.rp pg) j w then
          (cvConvert d (rmRound rm) c.satf8 (cvVal t (el (c.rv u va) j (cvWidth t)))).1 % 2 ^ cvWidth d
        else el (c.rv u vd) j (cvWidth d)) ∧
      ∀ j, 2048 / w * cvWidth d ≤ j → v.getLsbD j = (c.rv u vd).getLsbD j) ∧
    (∀ h, c.lentTo (unitSlot u) = some h → ∃ (v : VReg) (fl : Flags), exec (.vcvt u g d t .sr vd va pg) s =
      .next { s with cur := some (c.pushF (.v u vd.toNat) v.toNat 4 fl), fresh := s.fresh + 4 }) ∧
    (WellFormed.wide q = false →
      (∃ v : VReg, ∃ fl, PutsFlags s c (.vqnt u g q vd va pg) (.v u vd.toNat) v.toNat 4 fl ∧
        (∀ j, j < 64 → act j = false → el v j q.width = 0) ∧ (∀ j, 544 ≤ j → v.getLsbD j = false) ∧
        (∀ j, 64 * q.width ≤ j → j < 512 → v.getLsbD j = false) ∧
        ∀ blk, blk < 4 →
          let mine := fun j => j / 16 = blk ∧ act j = true
          ∃ X : Int,
            (∀ j, mine j →
              el v j q.width = (cvtCode q .rne false ((x j).mul (.fin false 1 (-X)))).1 % 2 ^ q.width) ∧
            ((∃ j, mine j ∧ (x j).isFinNz = false ∧ (x j).isZero = false) → X = 0 ∧ el v (64 + blk) 8 = 0xFF) ∧
            ((∀ j, mine j → (x j).isZero = true) → X = 0 ∧ el v (64 + blk) 8 = 127) ∧
            ∀ k, mine k → (x k).isFinNz = true → (∀ j, mine j → (x j).isZero = true ∨
                ((x j).isFinNz = true ∧ fvTop (x j) ≤ fvTop (x k))) →
              X = max (fvTop (x k) - (if q = .e4m3 then 8 else if q = .e5m2 then 15 else 2)) (-127) ∧
                (el v (64 + blk) 8 : Int) = X + 127) ∧
      PutsElementsFlags s c (.vdqnt u g q vd va pg) u vd 4 32 (c.rp pg) (c.rv u vd)
        (fun j =>
          let sc := el (c.rv u va) (64 + j / 16) 8
          let e := q.val (el (c.rv u va) j q.width)
          if sc = 0xFF ∨ e.isNan = true then (FpTy.f32.nanCode, 0)
          else ((cvtCode .f32 .rne false (e.mul (.fin false 1 ((sc : Int) - 127)))).1 % 2 ^ 32,
            (cvtCode .f32 .rne false (e.mul (.fin false 1 ((sc : Int) - 127)))).2)))

/-! ### The M slot -/

/-- R111, R158, R217, R225 and R231: an M instruction whose checks pass, with room in the engine queue, enters the queue with
the bits lent to it; its effect comes at the end of its unit. It waits while an earlier governed instruction has a repetition to
start, while an MMAG step has not all its slices, for an MSCALE behind an MOUT that writes what it reads (assumption 20 of the
model, DESIGN CHOICE), and behind an outstanding .acq (assumption 16, DEDUCED). For MOPEN, MCLOSE, MCOMB, MOUT, MLDA, MSCALE,
MCFG, MSET, MADD, MMA and MMAG. -/
def Obligations.MatrixInstructionsEnterTheQueue : Prop :=
  ∀ (s : State) (c : Ctx) (g : Guard), s.cur = some c → c.guardOk g = true → c.repm = none →
    let enters := fun (i : Instr) => c.mIssueFault i = none →
      (c.mq.length < 2 → c.repsToStart = false → (∀ m ∈ c.mq, isMmag m.ins = true → m.active = true) →
        c.tableWaits i = false → c.acqPending = false → exec i s =
          .next (s.working { c with mq := c.mq ++ [⟨i, c.lentTo 4, false, 1, c.issued, false, false, false, c.satf8⟩] })) ∧
      (c.repsToStart = true ∨ (∃ m ∈ c.mq, isMmag m.ins = true ∧ m.active = false) ∨ c.tableWaits i = true ∨
          2 ≤ c.mq.length ∨ c.acqPending = true →
        exec i s = .next (s.working { c with issue := { c.issue with held := true } }))
    ∀ (ch chb : BitVec 3) (h d pl : BitVec 5) (cs : BitVec 3) (mk mx my ms mt : BitVec 4) (t : FpTy) (mt' : MatTy) (rm : Rm)
      (tab : Bool) (cfg : BitVec 20) (imm : BitVec 16),
      enters (.mopen g ch h d cs mk) ∧ enters (.mclose g ch) ∧ enters (.mcomb g ch chb) ∧ enters (.mout g pl mx t rm) ∧
      enters (.mlda g pl mx t) ∧ enters (.mscale g tab mx) ∧ enters (.mcfg g cfg) ∧ enters (.mset g mk imm) ∧
      enters (.madd g mk imm) ∧ enters (.mma g mt' ch mx my ms mt) ∧ enters (.mmag g mt' ch mx my ms mt) ∧
      (∀ i, (∀ tab g mx, i ≠ .mscale g tab mx) → c.tableWaits i = false)

/-- R158 and R159: a governed MMA, MMAG, MOUT, MLDA or MADD takes the pending count as its repetitions, and an instruction
that admits no repetition raises REPM_TARGET, also where a check of its own would fail (assumption 21 of the model, DEDUCED). -/
def Obligations.RepetitionGovernsMatrixInstructions : Prop :=
  ∀ (s : State) (c : Ctx) (g : Guard) (n : Nat) (i : Instr) (w : Word32), s.cur = some c → c.guardOk g = true →
    c.repm = some n → encode i = some (.M, w) → guardOf i = g →
    (mRepeats i = true → c.mIssueFault i = none → c.mq.length < 2 → c.repsToStart = false →
      (∀ m ∈ c.mq, isMmag m.ins = true → m.active = true) → c.acqPending = false →
      exec i s = .next (s.working { c with
        repm := none, mq := c.mq ++ [⟨i, c.lentTo 4, true, n, c.issued, false, false, false, c.satf8⟩] })) ∧
    (mRepeats i = false → c.fatal = none → ∃ d, exec i s = .next (s.working d) ∧
      d.fatal = some ⟨0x0B, 1, 4, w.toNat⟩ ∧ d.issue.raised = .fault)

/-! ### The L slot -/

/-- R237, R343 and R345: what an LM access needs: every piece aligned and inside the partition, and no poisoned word read. That
MISALIGN comes before LM_RANGE and both before POISON is assumption 21 of the model (DEDUCED). -/
def Obligations.LocalAccessChecks : Prop :=
  ∀ (c : Ctx) (offs : List Nat) (n align : Nat), 0 < n →
    (c.lmFault offs n align true = none ↔
      ∀ o ∈ offs, o % align = 0 ∧ o + n ≤ c.lmSize ∧ ∀ w ∈ c.poisonLm, ¬ (8 * w < o + n ∧ o < 8 * w + 8)) ∧
    ((∃ o ∈ offs, o % align ≠ 0) → ∃ o ∈ offs, o % align ≠ 0 ∧ c.lmFault offs n align true = some (0x05, o)) ∧
    ((∀ o ∈ offs, o % align = 0) → (∃ o ∈ offs, c.lmSize < o + n) →
      ∃ o ∈ offs, c.lmSize < o + n ∧ c.lmFault offs n align true = some (0x10, o))

/-- R91 and R237 to R239: the loads put the bytes that they read from own LM in flight with bound 6. -/
def Obligations.LocalLoadResults : Prop :=
  ∀ (s : State) (c : Ctx) (g : Guard) (f : VFile) (v aa ax pd ad : BitVec 5) (sd : BitVec 6) (o9 : BitVec 9)
    (o10 : BitVec 10) (t : IntTy), s.cur = some c → c.guardOk g = true → c.lmHeld = false →
    let off := fun (d : Int) => wrap ((c.ra aa).toNat + d) 64
    let at9 := fun (unit : Int) => off (widened (c.lentTo 5) 9 o9 * unit)
    let at10 := fun (unit : Int) => off (widened (c.lentTo 5) 10 o10 * unit)
    let pieces := (List.range 8).map fun (j : Nat) => off (j * (c.ra ax).toInt)
    let elems := (List.range 64).map fun (j : Nat) => off (el (c.rv f ax) j 32)
    let n := itWidth t / 8
    (c.lmFault [at9 32] 256 32 true = none →
      PutsLoad s c (.vld g f v aa o9) (.v f v.toNat) [at9 32] 256 (leNat (c.lm.read (at9 32) 256))) ∧
    (c.lmFault pieces 32 32 true = none →
      PutsLoad s c (.vlds g f v aa ax) (.v f v.toNat) pieces 32 (leNat (pieces.flatMap fun o => c.lm.read o 32))) ∧
    (c.lmFault [at9 32] 32 32 true = none → ∃ r : VReg,
      PutsLoad s c (.vldb g f v aa o9) (.v f v.toNat) [at9 32] 32 r.toNat ∧
      ∀ j, j < 256 → el r j 8 = (c.lm.byte (at9 32 + j % 32)).toNat) ∧
    (c.lmFault [at10 32] 32 32 true = none →
      PutsLoad s c (.pld g pd aa o10) (.p pd.toNat) [at10 32] 32 (leNat (c.lm.read (at10 32) 32))) ∧
    (c.lmFault [at10 8] 8 8 true = none →
      PutsLoad s c (.ald g ad aa o10) (.a ad.toNat) [at10 8] 8 (leNat (c.lm.read (at10 8) 8))) ∧
    (WellFormed.zNarrow t = true → c.lmFault elems n n true = none →
      PutsLoad s c (.vgth g t f v aa ax) (.v f v.toNat) elems n (leNat (elems.flatMap fun o => c.lm.read o n))) ∧
    (c.lmFault [at9 1] n n true = none →
      PutsLoad s c (.sld g t sd aa o9) (.s sd.toNat) [at9 1] n (wrap (itVal t (leNat (c.lm.read (at9 1) n))) 64))

/-- R90, R102 and R237 to R239: the stores write their bytes, at the address that their operands give, and no other byte of LM;
of pieces and elements that overlap, the last one stands. Loads in flight have been performed before (Ctx.settleLoads). An RATOM
of the same bundle on bytes of own LM that a store writes is performed before it (Ctx.ratomsFirst; assumption 95 of the model,
DEDUCED); without one that does nothing. -/
def Obligations.LocalStoreResults : Prop :=
  ∀ (s : State) (c : Ctx) (g : Guard) (f : VFile) (v aa ax pd ad : BitVec 5) (sd : BitVec 6) (o9 : BitVec 9)
    (o10 : BitVec 10) (t : IntTy), s.cur = some c → c.guardOk g = true → c.lmHeld = false →
    let n := itWidth t / 8
    let k := c.settleLoads
    let alone := ∀ o ∈ c.ops, o.kind = .ratom → o.bundle ≠ c.issued
    let stores := fun (i : Instr) (off len val : Nat) => ∃ d, exec i s = .next (s.working d) ∧ c.SameRegs d ∧
      d.inflight = k.inflight ∧ d.ts = c.ts ∧ d.as = c.as ∧ d.sems = c.sems ∧
      ∀ x, d.lm.byte x = if off ≤ x ∧ x < off + len then BitVec.ofNat 8 (val / 256 ^ (x - off))
        else (k.ratomsFirst c.issued off len).lm.byte x
    let storesMany := fun (i : Instr) (offs : List Nat) (len : Nat) (val : Nat → Nat) =>
      ∃ d, exec i s = .next (s.working d) ∧ c.SameRegs d ∧ d.inflight = k.inflight ∧ d.ts = c.ts ∧ d.as = c.as ∧
      d.sems = c.sems ∧ (alone → (∀ x, (∀ o ∈ offs, ¬ (o ≤ x ∧ x < o + len)) → d.lm.byte x = c.lm.byte x) ∧
      ∀ j o x, offs[j]? = some o → o ≤ x → x < o + len →
        (∀ k p, j < k → offs[k]? = some p → ¬ (p ≤ x ∧ x < p + len)) →
        d.lm.byte x = BitVec.ofNat 8 (val j / 256 ^ (x - o)))
    (alone → ∀ off len, k.ratomsFirst c.issued off len = k) ∧
    (∀ o off len, c.ops = [o] → k.ownRatom c.issued off len o = true → ctlRet o.ctl = false →
      poisonHit c.poisonLm 8 (rlOff o.dst.toNat) (atomBytes o.ty) = false →
      let old := c.lm.num (rlOff o.dst.toNat) (atomBytes o.ty)
      let new := (atomNew o.ty o.aop old o.val.toNat o.expd.toNat).getD old
      ∀ x, (k.ratomsFirst c.issued off len).lm.byte x =
        if rlOff o.dst.toNat ≤ x ∧ x < rlOff o.dst.toNat + atomBytes o.ty
          then BitVec.ofNat 8 (new / 256 ^ (x - rlOff o.dst.toNat)) else c.lm.byte x) ∧
    (c.lmFault [c.dispOff aa o9 32] 256 32 false = none →
      stores (.vst g f v aa o9) (c.dispOff aa o9 32) 256 (c.rv f v).toNat) ∧
    (c.lmFault (c.pieces aa ax) 32 32 false = none →
      storesMany (.vsts g f v aa ax) (c.pieces aa ax) 32 (fun j => el (c.rv f v) j 256)) ∧
    (c.lmFault [c.dispOff aa o10 32] 32 32 false = none →
      stores (.pst g pd aa o10) (c.dispOff aa o10 32) 32 (c.rp pd).toNat) ∧
    (c.lmFault [c.dispOff aa o10 8] 8 8 false = none →
      stores (.ast g ad aa o10) (c.dispOff aa o10 8) 8 (c.ra ad).toNat) ∧
    (WellFormed.zNarrow t = true → c.lmFault (c.gather f aa ax) n n false = none →
      storesMany (.vsct g t f v aa ax) (c.gather f aa ax) n (fun j => el (c.rv f v) j (8 * n))) ∧
    (c.lmFault [c.dispOff aa o9 1] n n false = none →
      stores (.sst g t sd aa o9) (c.dispOff aa o9 1) n (c.rs sd).toNat)

/-- R90, R102, R240, R241 and Table 10.2: address arithmetic, and LATOM: one that is no release puts the old value in flight and
leaves the new one in LM, behind the loads in flight and an RATOM of the same bundle on its bytes (Ctx.ratomsFirst, assumption 95
of the model, DEDUCED; without one that does nothing, as LocalStoreResults says), and a release is held at the port, with its
result. -/
def Obligations.AddressAndLocalAtomicResults : Prop :=
  ∀ (s : State) (c : Ctx) (g : Guard) (ad aa ab : BitVec 5) (i10 : BitVec 10) (i15 : BitVec 15) (t : AtomTy) (op : AtomOp)
    (sd sb : BitVec 6) (ord : Ord), s.cur = some c → c.guardOk g = true →
    Puts s c (.aadd g ad aa ab) (.a ad.toNat) (((c.ra aa).toNat + (c.ra ab).toNat) % 2 ^ 64) 1 ∧
    Puts s c (.aaddi g ad aa i10) (.a ad.toNat) (wrap ((c.ra aa).toNat + widened (c.lentTo 5) 10 i10) 64) 1 ∧
    Puts s c (.aset g ad i15) (.a ad.toNat) (wrap (widened (c.lentTo 5) 15 i15) 64) 1 ∧
    (c.lmHeld = false → (ord = .relaxed ∨ ord = .acq) →
      c.lmFault [(c.ra aa).toNat] (atomBytes t) (atomBytes t) true = none →
      let n := atomBytes t
      let off := (c.ra aa).toNat
      let k := c.settleLoads.ratomsFirst c.issued off n
      let old := k.lm.num off n
      let b := (c.rs sb).toNat % 2 ^ (8 * n)
      let new := match op with
        | .add => (old + b) % 2 ^ (8 * n)
        | .min => if atomVal t old ≤ atomVal t b then old else b
        | .max => if atomVal t old ≤ atomVal t b then b else old
        | .and => old &&& b
        | .or => old ||| b
        | .xor => old ^^^ b
        | .xchg => b
        | .cas => if old = (c.rs sd).toNat % 2 ^ (8 * n) then b else old
      ∃ d, exec (.latom g t op sd aa sb ord) s =
          .next (s.working ((d.push (.s sd.toNat) (wrap (atomVal t old) 64) 6).loadedFrom LoadSrc.atom)) ∧
        d.inflight = c.settleLoads.inflight ∧ d.issued = c.issued ∧ c.SameRegs d ∧
        ∀ x, d.lm.byte x = if off ≤ x ∧ x < off + n then BitVec.ofNat 8 (new / 256 ^ (x - off)) else k.lm.byte x) ∧
    (c.lmHeld = false → c.lmFault [(c.ra aa).toNat] (atomBytes t) (atomBytes t) true = none → ∀ sc, ord = .rel sc →
      exec (.latom g t op sd aa sb ord) s = .next (s.working { (c.pushHeld (.s sd.toNat) 0 6 0 true).loadedFrom LoadSrc.atom with
        latom := some ⟨t, op, (c.ra aa).toNat, c.rs sb, c.rs sd, sd.toNat, c.issued, sc⟩ }))

/-! ### The Q and N slots -/

/-- R242 to R254 and R340: an operation of the Q slot whose checks pass takes a free entry of the global copy engine, the
lowest (assumption 128 of the model, DESIGN CHOICE), with its operands; CPY2 and CPYR read their records from own LM, unless a
held LATOM is still to write there. A CPYR, with its operands checked as at the first issue (assumption 23 of the model, DESIGN
CHOICE), takes an entry of the engine that its record names, or takes over the cut operation that its record matches, with one
mark less and the place among the M instructions that this one had (assumption 34, DEDUCED). -/
def Obligations.CopyInstructionsTakeAnEntry : Prop :=
  ∀ (s : State) (c : Ctx) (g : Guard) (ad src ac ax : BitVec 5), s.cur = some c → c.guardOk g = true → c.acqPending = false →
    let ctl := c.ra ac
    let dst := c.ra ad
    let from_ := c.ra src
    let ok := fun (used len : Nat) => ctlClean ctl used len = true ∧ ctlSem ctl < c.sems.length
    let far := fun (lm : Bool) (x : Word) => lm = true ∨ canonical x = true
    (∀ e, c.freeEntry 0 = some e →
      (ok 0b11 40 → far (ctlDsp ctl) dst → far (ctlSsp ctl) from_ →
        Takes s c e (.cpy g ad src ac) (c.blankOp .cpy dst from_ ctl)) ∧
      (c.latomMeets c.issued (c.ra ax).toNat 32 = false → ok 0b11 40 → far (ctlDsp ctl) dst → far (ctlSsp ctl) from_ →
        c.lmFault [(c.ra ax).toNat] 32 32 true = none → cpy2Ok (c.lm.read (c.ra ax).toNat 32) = true →
        Takes s c e (.cpy2 g ad src ac ax) { c.blankOp .cpy2 dst from_ ctl with
          aux := c.ra ax, recd := c.lm.read (c.ra ax).toNat 32
          total := cpy2Rows (c.lm.read (c.ra ax).toNat 32) * ctlLen ctl }) ∧
      (ok 0 40 → dst.toNat < 2 ^ 15 → ctlLen ctl % 32 = 0 → canonical from_ = true →
        Takes s c e (.cpyt g ad src ac) (c.blankOp .cpyt dst from_ ctl)) ∧
      (ok 0 40 → dst.toNat < 2 ^ 15 → ctlLen ctl % 32 = 0 → from_.toNat % 32 = 0 →
        Takes s c e (.cpylt g ad src ac) (c.blankOp .cpylt dst from_ ctl)) ∧
      (ok 0b10 40 → from_.toNat < 2 ^ 21 → ctlLen ctl % 4 = 0 → from_.toNat % 4 = 0 →
        (ctlDsp ctl = true → dst.toNat % 4 = 0) → far (ctlDsp ctl) dst →
        Takes s c e (.cpya g ad src ac) (c.blankOp .cpya dst from_ ctl)) ∧
      (ok 0b10 40 → far (ctlDsp ctl) dst → Takes s c e (.cpyz g ad ac) (c.blankOp .cpyz dst 0 ctl)) ∧
      (ok 0b11000 40 → ctlLen ctl % ctlGsz ctl = 0 → canonical from_ = true → (c.ra ax).toNat % 4 = 0 →
        Takes s c e (.cpyg g ad src ac ax) { c.blankOp .cpyg dst from_ ctl with aux := c.ra ax })) ∧
    ∀ o, c.lmFault [dst.toNat] 128 128 true = none → c.opOfRecord (c.lm.read dst.toNat 128) = some o →
      c.recHeld o dst.toNat = false → ctlSem o.ctl < c.sems.length →
      (∀ f ∈ c.operandChecks o (wordOf (.cpyr g ad)), f = none) →
      ((∀ x ∈ c.ops, x.cut = none) → ∀ e,
        ((opcOf o.kind).map Prod.fst = some 6 ∧ c.freeEntry 0 = some e) ∨
          ((opcOf o.kind).map Prod.fst = some 7 ∧ c.freeEntry 32 = some e) → Takes s c e (.cpyr g ad) o) ∧
      ∀ x, c.ops = [x] → x.cutMatches o = true →
        exec (.cpyr g ad) s = .next (s.working { c with
          ops := [{ o with e := x.e, origin := x.origin, behind := x.behind }]
          sems := modAt c.sems (ctlSem x.ctl) fun y => { y with marks := min 255 (y.marks - 1) } })

/-- R249 to R251: atomics take an entry of the global copy engine, the lowest free one (assumption 128 of the model, DESIGN
CHOICE), with their operands, ATOMX with what it reads of its record from own LM, no word of CODE at or beyond LEN; an FADD in DET
mode raises DET_FADD, also where an operand of it has a fault (assumption 21, DEDUCED). -/
def Obligations.AtomicInstructionsTakeAnEntry : Prop :=
  ∀ (s : State) (c : Ctx) (g : Guard) (t : AtomTy) (op : AtomOp) (aa ac ar : BitVec 5) (sv : BitVec 6) (ord : Ord) (e : Nat),
    s.cur = some c → c.guardOk g = true → c.acqPending = false → c.freeEntry 0 = some e →
    let ctl := c.ra ac
    let ok := fun (used len : Nat) =>
      ctlClean ctl used len = true ∧ ctlSem ctl < c.sems.length ∧ canonical (c.ra aa) = true
    (ok 0b100 (if ctlRet ctl then 21 else 0) → (c.ra aa).toNat % atomBytes t = 0 →
      (ctlRet ctl = true → ctlLen ctl % 2 ^ 21 % atomBytes t = 0 ∧ ctlLen ctl % 2 ^ 21 + atomBytes t ≤ c.lmSize) →
      Takes s c e (.atom g t op aa ac sv ord) { c.blankOp .atom (c.ra aa) 0 ctl with
        ty := t, aop := op, ord := ord
        val := if op = .cas then c.rs (sv + 1) else c.rs sv
        expd := if op = .cas then c.rs sv else 0 }) ∧
    (c.det = false → ok 0b100 (if ctlRet ctl then 21 else 0) → (c.ra aa).toNat % 4 = 0 →
      (ctlRet ctl = true → ctlLen ctl % 2 ^ 21 % 4 = 0 ∧ ctlLen ctl % 2 ^ 21 + 4 ≤ c.lmSize) →
      Takes s c e (.atomFadd g aa ac sv) { c.blankOp .fadd (c.ra aa) 0 ctl with ty := .z32, val := c.rs sv }) ∧
    (c.det = true → c.fatal = none → ∃ d, exec (.atomFadd g aa ac sv) s = .next (s.working d) ∧
      d.fatal.map Report.code = some 0x1B ∧ d.ops = c.ops) ∧
    ((∀ p ∈ atomxReads (c.ra ar).toNat (ctlLen ctl), c.latomMeets c.issued p.1 p.2 = false) → ok 0 5 →
      (c.ra aa).toNat % 64 = 0 → (∀ f ∈ c.atomxCheck (c.ra ar) (ctlLen ctl), f = none) →
      1 ≤ ctlLen ctl → ctlLen ctl ≤ 16 → recField (c.lm.read (c.ra ar).toNat 128) 96 32 = 0 →
      ∃ recd, Takes s c e (.atomx g aa ar ac) { c.blankOp .atomx (c.ra aa) (c.ra ar) ctl with recd := recd } ∧
        ∀ j, j < 128 → recd.getD j 0 =
          if 4 * ctlLen ctl ≤ j ∧ j < 64 then 0 else c.lm.byte ((c.ra ar).toNat + j))

/-- R255 to R259: an operation of the N slot whose checks pass takes a free entry of the remote copy engine, the lowest
(assumption 128 of the model, DESIGN CHOICE), with its operands; MCAST reads its list from own LM. -/
def Obligations.RemoteInstructionsTakeAnEntry : Prop :=
  ∀ (s : State) (c : Ctx) (g : Guard) (ad src ac ax : BitVec 5) (sv : BitVec 6) (inc : BitVec 8) (sc : Scope) (rel : Bool)
    (t : AtomTy) (op : AtomOp) (ord : Ord) (e : Nat), s.cur = some c → c.guardOk g = true → c.acqPending = false →
    c.freeEntry 32 = some e →
    let ctl := c.ra ac
    let dst := c.ra ad
    let from_ := c.ra src
    let n := ctlLen ctl
    let ok := fun (used len : Nat) => ctlClean ctl used len = true ∧ ctlSem ctl < c.sems.length
    (ok 0 40 → n ≤ 2 ^ 21 → rlClean dst false = true → Takes s c e (.rst g ad src ac) (c.blankOp .rst dst from_ ctl)) ∧
    (ok 0 40 → n ∈ [1, 2, 4, 8] → rlClean dst false = true → rlOff dst.toNat % n = 0 →
      Takes s c e (.rsts g ad sv ac) { c.blankOp .rsts dst 0 ctl with val := c.rs sv }) ∧
    (ok 0b11 40 → (if ctlDsp ctl = true then rlClean dst false = true else canonical dst = true) →
      (ctlSsp ctl = true ∨ canonical from_ = true) → Takes s c e (.rcpy g ad src ac) (c.blankOp .rcpy dst from_ ctl)) ∧
    (ok 0 40 → n ≤ 2 ^ 21 → rlClean from_ false = true → Takes s c e (.rget g ad src ac) (c.blankOp .rget dst from_ ctl)) ∧
    (rlClean dst true = true → Takes s c e (.rsig g ad inc sc rel) { c.blankOp .rsig dst 0 0 with
      val := BitVec.ofNat 64 (match c.lentTo 7 with
        | some h => h.toNat * 2 ^ 8 + inc.toNat
        | none => inc.toNat)
      ord := if rel = true then .rel sc else .relaxed }) ∧
    (c.latomMeets c.issued (c.ra ax).toNat (8 * dst.toNat) = false → ok 0 40 → n ≤ 2 ^ 21 → 1 ≤ dst.toNat →
      dst.toNat ≤ 64 →
      c.lmFault [(c.ra ax).toNat] (8 * dst.toNat) 8 true = none →
      (∀ v ∈ mcastList (c.lm.read (c.ra ax).toNat (8 * dst.toNat)) dst.toNat, rlClean v false = true) →
      Takes s c e (.mcast g ad src ac ax) { c.blankOp .mcast dst from_ ctl with
        aux := c.ra ax, recd := c.lm.read (c.ra ax).toNat (8 * dst.toNat), total := dst.toNat * n }) ∧
    (ok 0b100 (if ctlRet ctl then 21 else 0) → rlClean dst false = true → rlOff dst.toNat % atomBytes t = 0 →
      (ctlRet ctl = true → n % 2 ^ 21 % atomBytes t = 0 ∧ n % 2 ^ 21 + atomBytes t ≤ c.lmSize) →
      Takes s c e (.ratom g t op ad ac sv ord) { c.blankOp .ratom dst 0 ctl with
        ty := t, aop := op, ord := ord
        val := if op = .cas then c.rs (sv + 1) else c.rs sv
        expd := if op = .cas then c.rs sv else 0 })

/-- R61, R64, R66, R111, R153, R156, R157, R159, R223, R225, R227, R228, R232, R233, R242 and R256 to R259: a copy with a
reserved control bit, a semaphore outside the partition or an address that is not canonical, a transfer in a delay bundle, a
third loop, a loop beyond the one around it, a CALL in a loop, a misaligned target and a second pending count each raise the
fault that the rule names, and so do the operations of the N slot by their control operands, peers, lists and values, and the M
instructions as Table 9.6 and their rules say, on the state that every earlier M instruction leaves (Ctx.ahead). Which fault is
raised where several apply is assumption 21 of the model (DEDUCED), the plane that AS_RANGE names assumption 92 (DESIGN
CHOICE); a fault that hinges on guards not yet read comes later (Ctx.hinges, assumption 108, DEDUCED). -/
def Obligations.InstructionFaults : Prop :=
  (∀ (s : State) (c : Ctx) (g : Guard) (ad src ac : BitVec 5), s.cur = some c → c.guardOk g = true → c.fatal = none →
    let ctl := c.ra ac
    let faults := fun (code : Nat) => ∃ d, exec (.cpy g ad src ac) s = .next (s.working d) ∧
      d.fatal.map Report.code = some code ∧ d.fatal.map Report.cls = some 1 ∧ d.fatal.map Report.slot = some 6 ∧
      d.issue.raised = .fault ∧ d.ops = c.ops
    (ctlClean ctl 0b11 40 = false → faults 0x04) ∧
    (ctlClean ctl 0b11 40 = true → c.sems.length ≤ ctlSem ctl → faults 0x13) ∧
    (ctlClean ctl 0b11 40 = true → ctlSem ctl < c.sems.length → ctlDsp ctl = false → canonical (c.ra ad) = false →
      faults 0x14)) ∧
  (∀ (s : State) (c : Ctx) (g : Guard) (bt : BitVec 3) (len : BitVec 6) (cnt : BitVec 13) (k : BitVec 19),
    s.cur = some c → c.guardOk g = true → c.fatal = none → 0 < cnt.toNat → 0 < k.toNat →
    let faults := fun (i : Instr) (code : Nat) => ∃ d, exec i s = .next (s.working d) ∧
      d.fatal.map Report.code = some code ∧ d.fatal.map Report.cls = some 1 ∧ d.issue.raised = .fault ∧
      d.xfer = c.xfer ∧ d.loops = c.loops ∧ d.pc = c.pc
    (c.inDelay = true → faults (.br g bt) 0x06 ∧ faults (.call g bt) 0x06 ∧ faults (.ret g) 0x06 ∧
      faults (.loop g len cnt) 0x06 ∧ faults (.tret g 0) 0x06) ∧
    (c.inDelay = false → c.loops ≠ [] → faults (.call g bt) 0x09) ∧
    (c.inDelay = false → (c.rb bt).toNat % 32 ≠ 0 → faults (.br g bt) 0x05) ∧
    (c.inDelay = false → 2 ≤ c.loops.length → faults (.loop g len cnt) 0x07) ∧
    (c.inDelay = false → (∃ l, c.loops = [l] ∧ l.last.toNat < c.pc.toNat + 32 * (len.toNat + 1)) →
      faults (.loop g len cnt) 0x08) ∧
    (c.repm.isSome = true → faults (.repm g k) 0x0A) ∧
    (c.inDelay = false → c.indet = false → faults (.tret g 0) 0x02)) ∧
  (∀ (s : State) (c : Ctx) (g : Guard) (ad src ac ax : BitVec 5) (sv : BitVec 6) (inc : BitVec 8) (sc : Scope) (rel : Bool)
    (t : AtomTy) (op : AtomOp) (ord : Ord), s.cur = some c → c.guardOk g = true → c.fatal = none →
    let ctl := c.ra ac
    let dst := c.ra ad
    let from_ := c.ra src
    let faults := fun (i : Instr) (code : Nat) => ∃ d, exec i s = .next (s.working d) ∧
      d.fatal.map Report.code = some code ∧ d.fatal.map Report.cls = some 1 ∧ d.fatal.map Report.slot = some 7 ∧
      d.issue.raised = .fault ∧ d.ops = c.ops
    let control := fun (i : Instr) (used len : Nat) =>
      (ctlClean ctl used len = false → faults i 0x04) ∧
      (ctlClean ctl used len = true → c.sems.length ≤ ctlSem ctl → faults i 0x13)
    let ok := fun (used len : Nat) => ctlClean ctl used len = true ∧ ctlSem ctl < c.sems.length
    let ret := if ctlRet ctl then 21 else 0
    control (.rst g ad src ac) 0 40 ∧ control (.rsts g ad sv ac) 0 40 ∧ control (.rcpy g ad src ac) 0b11 40 ∧
    control (.rget g ad src ac) 0 40 ∧ control (.mcast g ad src ac ax) 0 40 ∧ control (.ratom g t op ad ac sv ord) 0b100 ret ∧
    (ok 0 40 → rlClean dst false = false → faults (.rst g ad src ac) 0x04 ∧ faults (.rsts g ad sv ac) 0x04) ∧
    (ok 0 40 → ctlLen ctl ∉ [1, 2, 4, 8] → faults (.rsts g ad sv ac) 0x04) ∧
    (ok 0 40 → ctlLen ctl ∈ [1, 2, 4, 8] → rlClean dst false = true → rlOff dst.toNat % ctlLen ctl ≠ 0 →
      faults (.rsts g ad sv ac) 0x05) ∧
    (ok 0b11 40 → ctlDsp ctl = true → rlClean dst false = false → faults (.rcpy g ad src ac) 0x04) ∧
    (ok 0b11 40 → ctlDsp ctl = false → canonical dst = false → faults (.rcpy g ad src ac) 0x14) ∧
    (ok 0b11 40 → (if ctlDsp ctl = true then rlClean dst false = true else canonical dst = true) → ctlSsp ctl = false →
      canonical from_ = false → faults (.rcpy g ad src ac) 0x14) ∧
    (ok 0 40 → rlClean from_ false = false → faults (.rget g ad src ac) 0x04) ∧
    (rlClean dst true = false → faults (.rsig g ad inc sc rel) 0x04) ∧
    (ok 0 40 → (dst.toNat = 0 ∨ 64 < dst.toNat) → faults (.mcast g ad src ac ax) 0x04) ∧
    (ok 0b100 ret → rlClean dst false = false → faults (.ratom g t op ad ac sv ord) 0x04) ∧
    (ok 0b100 ret → rlClean dst false = true → rlOff dst.toNat % atomBytes t ≠ 0 →
      faults (.ratom g t op ad ac sv ord) 0x05)) ∧
  ∀ (s : State) (c : Ctx) (g : Guard), s.cur = some c → c.guardOk g = true → c.fatal = none →
    let x := c.ahead
    let faults := fun (i : Instr) (code detail : Nat) => c.hinges i (code, detail) = false →
      (c.repm = none ∨ mRepeats i = true) → ∃ d, exec i s = .next (s.working d) ∧ d.fatal = some ⟨code, 1, 4, detail % 2 ^ 32⟩ ∧
        d.issue.raised = .fault ∧ d.ma = c.ma ∧ d.ch = c.ch ∧ d.tabA = c.tabA ∧ d.tabB = c.tabB ∧ c.SameStores d ∧
        d.mq.map (fun (m : MEntry) => { m with satNext := false }) = c.mq.map fun (m : MEntry) => { m with satNext := false }
    ∀ (ch chb : BitVec 3) (h d pl : BitVec 5) (cs : BitVec 3) (mk mx my ms mt : BitVec 4) (t : FpTy) (ty : MatTy) (rm : Rm)
      (tab : Bool),
      let k := (x.rma mk).toNat
      let r := (x.rma (mk + 1)).toNat
      let w := 2 ^ (r / 2 ^ 27)
      let lo := r % 2 ^ 24
      let size := 2 ^ (cs.toNat + 4)
      let row := maRow (x.rma mx)
      let top := 128 * x.part.ts
      let open_ := .mopen g ch h d cs mk
      ((k = 0 ∨ 2 ^ 24 < k ∨ 24 < r / 2 ^ 27 ∨ r / 2 ^ 24 % 8 ≠ 0 ∨ w < size ∨ lo % w ≠ 0 ∨ k ≤ lo ∨
          2 ^ d.toNat * size < min (lo + w) k - lo ∨ x.part.as ≤ h.toNat + d.toNat) →
        faults open_ 0x22 (wordOf open_)) ∧
      ((x.rch ch).state ≠ .opened → faults (.mclose g ch) 0x25 ch.toNat) ∧
      ((x.rch ch).state = .opened → (x.rch ch).m ≠ (x.rch ch).live → faults (.mclose g ch) 0x24 ch.toNat) ∧
      (let joins := ch ≠ chb ∧ (x.rch ch).state = .closed ∧ (x.rch chb).state = .closed ∧ (x.rch ch).k = (x.rch chb).k ∧
          (x.rch ch).kind = (x.rch chb).kind ∧ (x.rch ch).lo % (2 * 2 ^ (x.rch ch).lw) = 0 ∧
          (x.rch chb).lo = (x.rch ch).lo + 2 ^ (x.rch ch).lw ∧
          ((x.rch chb).lw = (x.rch ch).lw ∨
            ((x.rch chb).lw < (x.rch ch).lw ∧ (x.rch ch).k ≤ (x.rch chb).lo + 2 ^ (x.rch chb).lw))
      let outside := fun (i : Instr) (n : Nat) =>
        (planesRead x i ++ planesWritten x i 1).find? (fun p => decide (x.part.as ≤ p)) = some n
      (¬ joins → faults (.mcomb g ch chb) 0x26 (ch.toNat + chb.toNat * 8)) ∧
      (joins → ∀ n, outside (.mcomb g ch chb) n → faults (.mcomb g ch chb) 0x12 n) ∧
      ((x.rch ch).state = .opened → (x.rch ch).m = (x.rch ch).live → ∀ n, outside (.mclose g ch) n →
        faults (.mclose g ch) 0x12 n)) ∧
      (x.part.as ≤ pl.toNat → faults (.mout g pl mx t rm) 0x12 pl.toNat ∧ faults (.mlda g pl mx t) 0x12 pl.toNat) ∧
      (pl.toNat < x.part.as → top < row + 8 * t.width →
        faults (.mout g pl mx t rm) 0x11 (max row top) ∧ faults (.mlda g pl mx t) 0x11 (max row top)) ∧
      (let off := 256 * row + 32 * maSeg (x.rma mx)
      let entry := fun (e : Nat) => x.ts.num (off + 4 * e) 4
      (256 * top < off + 64 → faults (.mscale g tab mx) 0x11 (max row top)) ∧
      ∀ e, off + 64 ≤ 256 * top → e < 16 → x.poisonTs = [] → posFin (entry e) = false → (∀ j, j < e → posFin (entry j) = true) →
        c.tableWaits (.mscale g tab mx) = false → faults (.mscale g tab mx) 0x20 e) ∧
      ∀ mmag : Bool,
        let i : Instr := if mmag = true then .mmag g ty ch mx my ms mt else .mma g ty ch mx my ms mt
        let q := x.rch ch
        let scales := (q.present + 15) / 16
        let opened := q.state = .opened ∧ (q.kset = true → q.kind = mtInt ty)
        let inTs := x.rowsOut (x.mmaRows mmag ty ch mx my ms mt)
        let enough := mtScaled ty = true → scales ≤ maScnt (x.rma ms) ∧ scales ≤ maScnt (x.rma mt)
        (¬ opened → faults i 0x25 ch.toNat) ∧
        (opened → q.m = q.live → faults i 0x23 ch.toNat) ∧
        (opened → q.m < q.live →
          (∀ n, inTs = some n → faults i 0x11 n) ∧
          (inTs = none → x.part.as ≤ q.h + q.d → faults i 0x12 (q.h + q.d)) ∧
          (inTs = none → q.h + q.d < x.part.as →
            (¬ enough → faults i 0x21 scales) ∧
            (enough → mmag = true → x.info.shape ≠ 1 → faults i 0x27 (wordOf i)) ∧
            (enough → mmag = true → x.info.shape = 1 → q.size * mtWidth ty < 128 → faults i 0x22 (wordOf i))))

/-! ### Guards, results and their landing -/

/-- R131: under a false guard a slot instruction has no effect on its context. In the M slot its bundle waits as with a true
guard (R158, R225), and a pending REPM count is used up all the same (R158): one that admits repetition enters the queue, where
its guard is read again for each repetition, and any other discards the count (assumption 19 of the model, DEDUCED). -/
def Obligations.FalseGuardHasNoEffect : Prop :=
  (∀ (s : State) (c : Ctx) (i : Instr) (g : Guard) (sl : Slot) (op : BitVec 8) (o : BitVec 20), s.cur = some c →
    c.guardOk g = false → encode i = some (sl, slotWord op g o) → sl ≠ .M → (∀ t v, i ≠ .xim t v) →
    ∃ n, exec i s = .next { s with fresh := s.fresh + n } ∧ n ≤ 4) ∧
  ∀ (s : State) (c : Ctx) (i : Instr) (w : Word32), s.cur = some c → encode i = some (.M, w) →
    c.guardOk (guardOf i) = false →
    let hold := s.working { c with issue := { c.issue with held := true } }
    (c.repsToStart = true ∨ (∃ m ∈ c.mq, isMmag m.ins = true ∧ m.active = false) → exec i s = .next hold) ∧
    (c.repsToStart = false → (∀ m ∈ c.mq, isMmag m.ins = true → m.active = true) →
      (c.repm = none → exec i s = .next s) ∧
      ∀ n, c.repm = some n →
        (mRepeats i = false → exec i s = .next (s.working { c with repm := none })) ∧
        (mRepeats i = true → 2 ≤ c.mq.length ∨ c.acqPending = true → exec i s = .next hold) ∧
        (mRepeats i = true → c.mq.length < 2 → c.acqPending = false → exec i s = .next (s.working { c with
          repm := none, mq := c.mq ++ [⟨i, c.lentTo 4, true, n, c.issued, false, false, false, c.satf8⟩] })))

/-- R7 and R136: with one result in flight, its destination, of whatever file, holds the value from the bundle on that its bound
names; before the bound it holds no given value; and nothing else of the context changes as its bundles issue. What each
destination is; with MODE the queued M instructions of bundles before the CSRW's own get the new SATF8 (R112, R185). Of two
results for one destination the later one in issue order stays, its bound no less than the earlier one's, and the earlier one is
discarded but for its exception flags (R335). -/
def Obligations.ResultsLandInOrder : Prop :=
  (∀ (c : Ctx) (d : Dest) (v l n k : Nat), c.inflight = [] → 0 < k →
    let after := (List.range k).foldl (fun (x : Ctx) i => x.retire (n + i)) (c.push d v l)
    (l ≤ k → after = { c.store d v with
      issued := c.issued + k
      mq := if d = .csr 0x07 then
          c.mq.map fun (m : MEntry) => if m.bundle + 1 < c.issued + l then { m with satNext := v.testBit 9 } else m
        else c.mq }) ∧
    (k < l → ∃ w, after = { c.store d w with
      issued := c.issued + k, inflight := [⟨some d, v, 0, c.issued + l, false, false, none⟩] })) ∧
  (∀ (c : Ctx) (v : Nat),
    (∀ j : Fin 64, c.store (.s j) v = { c with s := c.s.set j (BitVec.ofNat 64 v) }) ∧
    (∀ j : Fin 32, c.store (.a j) v = { c with a := c.a.set j (BitVec.ofNat 64 v) }) ∧
    (∀ j : Fin 32, c.store (.v .va j) v = { c with va := c.va.set j (BitVec.ofNat 2048 v) }) ∧
    (∀ j : Fin 32, c.store (.v .vb j) v = { c with vb := c.vb.set j (BitVec.ofNat 2048 v) }) ∧
    (∀ j : Fin 24, c.store (.p j) v = { c with p := c.p.set j (BitVec.ofNat 256 v) }) ∧
    (∀ j : Fin 8, c.store (.f j) v = { c with f := c.f.set j (decide (v % 2 = 1)) }) ∧
    (∀ j : Fin 8, c.store (.b j) v = { c with b := c.b.set j (BitVec.ofNat 32 v) }) ∧
    ∀ j, c.store (.csr j) v =
      { c with mode := (c.store (.csr j) v).mode, evmask := (c.store (.csr j) v).evmask,
               fault := (c.store (.csr j) v).fault, srkey := (c.store (.csr j) v).srkey }) ∧
  ∀ (c : Ctx) (d : Dest) (v l v' l' : Nat) (fl : Flags), c.inflight = [] →
    let x := (c.pushF d v l fl).push d v' l'
    (x.inflight.filter fun e => e.dst = some d) = [⟨some d, v', 0, c.issued + max l l', true, false, none⟩] ∧
    ((∀ n, d ≠ .csr n) → x.landAll.fault = c.fault ||| (fl.zeroExtend 64 <<< (59 : Nat))) ∧
    x.landAll.inflight = []

/-- R334: recording a report sets CODE, CLASS, SLOT and DETAIL together, sets OVR exactly where a report stood there, and
leaves the context's flags and recovery bits. -/
def Obligations.FaultReportFields : Prop :=
  ∀ (f : Word) (r : Report), r.code < 256 → r.cls < 8 → r.slot < 8 → r.detail < 2 ^ 32 →
    let w := reportInto f r
    bitsOf w.toNat 0 8 = r.code ∧ bitsOf w.toNat 10 3 = r.cls ∧ bitsOf w.toNat 13 3 = r.slot ∧
    bitsOf w.toNat 16 32 = r.detail ∧ (w.getLsbD 48 = true ↔ f.getLsbD 48 = true ∨ bitsOf f.toNat 0 8 ≠ 0) ∧
    ∀ j, 49 ≤ j → j < 64 → w.getLsbD j = f.getLsbD j

/-- R50 to R52, R137 and R241: in DET mode a trapped read with a handler saves the program counter and the transfer under way,
sets INDET and goes to the handler, once the result of a held LATOM of an earlier bundle has landed; inside the handler, or
without one, it is fatal. -/
def Obligations.DetModeTraps : Prop :=
  (∀ (s : State) (c : Ctx) (g : Guard) (sd : BitVec 6) (n : BitVec 8) (h : Word32), s.cur = some c → c.guardOk g = true →
    c.det = true → c.indet = false → c.info.deth = some h → c.tretVal = none →
    (n.toNat = 0x06 ∨ n.toNat = 0x08 ∨ n.toNat = 0x09 ∨ n.toNat = 0x0A) →
    (c.inflight = [] → (∀ x, c.latom = some x → c.issued ≤ x.bundle) →
      ∃ d, exec (.csrr g sd n) s = .next (s.working d) ∧ d.trapPc = c.pc ∧ d.pc = h ∧ d.indet = true ∧
      d.aside = c.xfer ∧ d.xfer = none ∧ bitsOf d.fault.toNat 0 8 = 0x18 ∧ bitsOf d.fault.toNat 10 3 = 2 ∧
      bitsOf d.fault.toNat 13 3 = 1 ∧ bitsOf d.fault.toNat 16 32 = n.toNat + sd.toNat * 2 ^ 9 ∧ c.SameRegs d ∧
      c.SameStores d ∧ d.loops = c.loops ∧ d.fatal = c.fatal ∧ d.issue.raised = .det) ∧
    ∀ x, c.latom = some x → x.bundle < c.issued →
      exec (.csrr g sd n) s = .next (s.working { c with issue := { c.issue with held := true } })) ∧
  ∀ (s : State) (c : Ctx) (g : Guard) (sd : BitVec 6) (n : BitVec 8), s.cur = some c → c.guardOk g = true →
    c.det = true → csrTrapped n.toNat = true → n.toNat ≠ 0x0B → c.tretVal = none → c.fatal = none →
    (c.indet = true → ∃ d, exec (.csrr g sd n) s = .next (s.working d) ∧ d.fatal.map Report.code = some 0x19) ∧
    (c.indet = false → c.info.deth = none →
      ∃ d, exec (.csrr g sd n) s = .next (s.working d) ∧ d.fatal.map Report.code = some 0x1A)

/-- R150, R152, R155 and R157: a loop of n passes goes back to the first bundle of its body with one pass less, and after the
last one goes on behind the body, disarmed; after a taken transfer two more bundles issue in sequence, then the target,
where the loops whose body does not hold the target are disarmed. -/
def Obligations.BundleSequence : Prop :=
  (∀ (c : Ctx) (first last : Word32) (n : Nat) (rest : List Loop), c.issue.jump = none → c.pc = last →
    c.loops = ⟨first, last, n⟩ :: rest →
    (1 < n → c.goOn.pc = first ∧ c.goOn.loops = ⟨first, last, n - 1⟩ :: rest) ∧
    (n ≤ 1 → (∀ l ∈ rest, l.last ≠ last) → c.goOn.pc = last + 32 ∧ c.goOn.loops = rest)) ∧
  ∀ (c : Ctx) (t : Word32), c.issue.jump = none → (∀ l ∈ c.loops, l.last ≠ c.pc ∧ l.last ≠ c.pc + 32) →
    let d1 := ({ c with xfer := some ⟨t, 2⟩ } : Ctx).advance none
    let d2 := d1.advance (some ⟨t, 2⟩)
    let d3 := d2.advance (some ⟨t, 1⟩)
    d1.pc = c.pc + 32 ∧ d1.inDelay = true ∧ d2.pc = c.pc + 64 ∧ d2.inDelay = true ∧ d3.pc = t ∧ d3.inDelay = false ∧
    d3.arrive.xfer = none ∧ d3.arrive.pc = t ∧
    d3.arrive.loops = c.loops.filter fun l => decide (l.first ≤ t ∧ t ≤ l.last)

/-- R2 and R10: a byte read after a write is the byte written in the written range, and as before elsewhere; a number read
back is the number written, modulo its width. -/
def Obligations.MemoryReadAfterWrite : Prop :=
  ∀ (m : Memory) (a n v x : Nat) (bs : List Byte),
    (m.write a bs).byte x = (if a ≤ x ∧ x < a + bs.length then bs.getD (x - a) 0 else m.byte x) ∧
    (m.write a (leBytes n v)).num a n = v % 256 ^ n ∧
    (m.wf = true → (m.write a bs).wf = true ∧ (m.write a (m.read a n)) = m)

/-! ### Steps, decoding and reset -/

/-- R138, R139, R347, R361, R363 and R373: a step first notes, for every tract with a fault report, the rank whose report came
first, the lower one of those that come together; that the reports of one step come together, and those of an earlier step before,
is assumption 102 of the model (DEDUCED). And a tract that has met no fault and whose sites fail it is to end with SITE_FENCED,
whatever it meets afterwards; one that has met a fault before is not. Then the step takes the oldest turn of the agenda: an event
is exec of it, and a V-cycle of a site is that cycle; with an empty agenda the model's own schedule moves (assumption 1). And a
bundle that fetch or decode refuses raises the fault that the rule names, at its slot, and nothing of it runs. -/
def Obligations.StepFollowsTheAgenda : Prop :=
  (∀ (s : State) (i : Instr) (site e n : Nat) (cw : Bool) (rest : List Turn),
    let r := s.receive
    let noted := fun (t : Tract) (k : Option Nat) => ∃ y ∈ r.tracts, { y with cause := t.cause } = { t with frank := k }
    let unhurt := fun (t : Tract) => ∀ c ∈ s.ctxs, c.key.tract = t.id → c.fatal = none
    r = { s with tracts := r.tracts } ∧
    r.tracts.map (fun t => { t with frank := none, cause := none }) =
      s.tracts.map (fun t => { t with frank := none, cause := none }) ∧
    (∀ t ∈ s.tracts, t.frank.isSome = true → noted t t.frank) ∧
    (∀ t ∈ s.tracts, t.frank = none → unhurt t → noted t none) ∧
    (∀ t ∈ s.tracts, t.frank = none → ∀ c ∈ s.ctxs, c.key.tract = t.id → c.fatal.isSome = true →
      ∃ k, noted t (some k) ∧ k ≤ c.key.rank) ∧
    (∀ t ∈ s.tracts, t.cause = none → unhurt t → t.state ≠ .ending → t.state ≠ .complete → t.state ≠ .saved →
      (s.sitesFail t = true → { t with cause := some ⟨5, 0, 0xFFFF, 0⟩ } ∈ r.tracts) ∧
      (s.sitesFail t = false → t ∈ r.tracts)) ∧
    (∀ t ∈ s.tracts, t.cause.isSome = true → ∃ y ∈ r.tracts, { y with frank := t.frank } = t) ∧
    (∀ t ∈ s.report.tracts, t.cause = none → (s.report.firstFault t).isSome = true → t ∈ r.tracts) ∧
    (s.agenda = .event i :: rest → step s = exec i { r with agenda := rest }) ∧
    (s.agenda = .cycle site :: rest → step s = .next (({ r with agenda := rest } : State).cycleOf site)) ∧
    (s.agenda = .link e cw n :: rest →
      step s = .next ((({ r with agenda := rest } : State).linkServe e cw n).getD { r with agenda := rest })) ∧
    (s.agenda = [] → step s = .next r.proceed)) ∧
  ∀ (s : State) (c : Ctx) (rest : List Turn) (code sl detail : Nat), s.agenda = .cycle c.site :: rest →
    s.awake = true → s.ctxs = [c] → c.site < 256 → s.issues c = true → c.sys = none →
    (s.site c.site).portTaken = false → c.fetchFault = some (code, sl, detail) →
    ∃ (u : State) (e : Ctx), step s = .next u ∧ u.ctxs = [e] ∧
      e.fatal = some ⟨code, 1, sl, detail % 2 ^ 32⟩ ∧ e.pc = c.pc ∧ e.lm = c.lm ∧ e.ops = c.ops ∧
      e.mq.map (fun (m : MEntry) => { m with satNext := false }) = c.mq.map fun (m : MEntry) => { m with satNext := false }

/-- R129, R135, R150: one V-cycle of a site whose only context offers a bundle with one occupied slot runs exec of the
instruction that the slot decodes to; then the bundle counts as issued, results land as due, and the program counter moves
(Ctx.finish). Nothing else of the context changes but CLOCK. -/
def Obligations.StepRunsTheDecodedInstruction : Prop :=
  ∀ (s t : State) (c d : Ctx) (rest : List Turn) (sl : Slot) (i : Instr), s.agenda = .cycle c.site :: rest →
    s.awake = true → s.ctxs = [c] → c.site < 256 → s.issues c = true → c.sys = none → c.latom = none →
    (s.site c.site).halfRate % 2 = 0 → (s.site c.site).portTaken = false →
    c.fetchFault = none → decodeSlot sl (slotOf c.words sl.index) = .ok i →
    (∀ k, k ≠ sl → slotOf c.words k.index = 0) →
    exec i (({ s with agenda := rest } : State).begin c.arrive) = .next t → t.cur = some d → d.key = c.key →
    d.issue.held = false → d.issue.raised = .no →
    ∃ (u : State) (e : Ctx), step s = .next u ∧ u.ctxs = [e] ∧ u.cur = none ∧ u.agenda = t.agenda ∧ u.hbm = t.hbm ∧
      { e with clock := 0 } = { d.finish c.arrive.xfer c.tretVal.isSome t.fresh with clock := 0 }

/-- R129, R141, R142 and Table 6.22: the words and the bytes of the spec's example bundle, words written out from the formats
of the other slots, and words that decode refuses. -/
def Obligations.DecodedWords : Prop :=
  decodeSlot .B 0 = .ok .nop ∧
  decodeSlot .B 0x0110_0003 = .ok (.xim 1 3) ∧
  decodeSlot .S 0x1821_44E8 = .ok (.addi ⟨false, 2⟩ 5 4 0xE8) ∧
  decodeSlot .VA 0x8000_8860 = .ok (.vfadd .va ⟨false, 0⟩ .f32 1 2 3 0) ∧
  decodeSlot .L 0x2601_8610 = .ok (.sld ⟨false, 0⟩ .z32 6 3 16) ∧
  bundleWords [0x03, 0x00, 0x10, 0x01, 0xE8, 0x44, 0x21, 0x18, 0x60, 0x88, 0x00, 0x80, 0x00, 0x00, 0x00, 0x00,
    0x00, 0x00, 0x00, 0x00, 0x10, 0x86, 0x01, 0x26, 0x00, 0x00, 0x00, 0x00, 0x00, 0x00, 0x00, 0x00] =
    [0x0110_0003, 0x1821_44E8, 0x8000_8860, 0, 0, 0x2601_8610, 0, 0] ∧
  decodeSlot .B 0x02A0_0008 = .ok (.bpre ⟨true, 2⟩ 0 8) ∧
  decodeSlot .VB 0x0A00_8443 = .ok (.vadd .vb ⟨false, 0⟩ .s32 1 1 2 3) ∧
  decodeSlot .M 0x0810_FFFF = .ok (.mset ⟨false, 1⟩ 0 0xFFFF) ∧
  decodeSlot .Q 0x0100_8860 = .ok (.cpy ⟨false, 0⟩ 1 2 3) ∧
  decodeSlot .N 0x0300_8860 = .ok (.rcpy ⟨false, 0⟩ 1 2 3) ∧
  decodeSlot .S 0xFF00_0000 = .error .illInsn ∧
  decodeSlot .S 0x0100_0001 = .error .resOpnd

/-- R138: whatever word the decoder accepts stands for a well-formed slot instruction, and a refused word names its
fault. -/
def Obligations.DecoderAcceptsOnlyWellFormed : Prop :=
  ∀ (sl : Slot) (w : Word32), (∀ i, decodeSlot sl w = .ok i → i.WellFormed ∧ isSlot i = true) ∧
    (opListed sl (opOf w) = false → decodeSlot sl w = .error .illInsn)

/-- R129 to R142: every well-formed slot instruction is what the decoder reads from its encoded word, with every operand at
every value that the encoding admits; and no two instructions share a word of a slot. -/
def Obligations.DecodeInvertsEncode : Prop :=
  (∀ (i : Instr) (sl : Slot) (w : Word32), i.WellFormed → encode i = some (sl, w) → decodeSlot sl w = .ok i) ∧
  ∀ (i j : Instr) (sl : Slot) (w : Word32), i.WellFormed → j.WellFormed → encode i = some (sl, w) →
    encode j = some (sl, w) → i = j

/-- R27, R45, R310, R312, R353, R358 and R366: what power-on leaves, die links and fabric ports still to train among it; BF 64,
no sticky bit of ERRSUM, no ERR, no command in progress, and ST 1 before training are the model's choice (assumption 3). -/
def Obligations.PowerOnState : Prop :=
  State.reset.cur = none ∧ State.reset.ctxs = [] ∧ State.reset.queues = [] ∧ State.reset.launches = [] ∧
  State.reset.tracts = [] ∧ State.reset.repl = none ∧ State.reset.dies.length = 4 ∧ State.reset.sites.length = 256 ∧
  State.reset.edges.length = 4 ∧
  (∀ d ∈ State.reset.dies, d.stage = 0 ∧ d.meas = [0, 0, 0, 0, 0] ∧ d.fw = List.replicate 5 none ∧ d.sticky = 0 ∧
    d.err = 0 ∧ d.refused = 0 ∧ d.locked = false ∧ d.bf = 64 ∧ d.expcap = 56 ∧ d.ports.length = 4 ∧
    ∀ p ∈ d.ports, p.st = 1 ∧ p.downs = 0) ∧
  (∀ x ∈ State.reset.sites, x.ceil = [31, 31, 31, 31] ∧ x.fenced = false ∧ x.drain = false) ∧
  (∀ e ∈ State.reset.edges, e.st = 1 ∧ e.wid = 8 ∧ e.rtr = 0) ∧
  State.reset.devSet = false ∧ State.reset.invBusy = false

/-- Assumptions 2 and 3 of the model: the state after reset has canonical memories, and its agenda names no slot
instruction. -/
def Obligations.ResetMemoriesAreCanonical : Prop := State.reset.memOk ∧ State.reset.eventsOnly

/-! ### Frames, isolation and invariants -/

/-- R7, R36, R57 and R135: a slot instruction that raises nothing leaves every register as it is at issue (its results go in
flight), but for FNI's token and for FENCE and EXIT, which land results; it leaves TS, AS and the instruction store, LM
unless it is of the L slot, control and status registers unless it is of the B slot, semaphores unless it is of the B
slot or a CPYR, which takes a mark, and the engine queue unless it is of the M slot, but for the SATF8 that a result of MODE
landed by FENCE or EXIT brings its entries (R112). -/
def Obligations.SlotInstructionFrame : Prop :=
  ∀ (s t : State) (c d : Ctx) (i : Instr) (sl : Slot) (w : Word32), s.cur = some c → encode i = some (sl, w) →
    exec i s = .next t → t.cur = some d → d.issue.raised = .no →
    ((∀ g sc, i ≠ .fence g sc) → (∀ g, i ≠ .exit g) → (∀ g f sc, i ≠ .fni g f sc) → c.SameRegs d) ∧
    (∀ x, d.ts.byte x = c.ts.byte x) ∧ (∀ x, d.as.byte x = c.as.byte x) ∧ (∀ x, d.istore.byte x = c.istore.byte x) ∧
    (sl ≠ .L → ∀ x, d.lm.byte x = c.lm.byte x) ∧ (sl ≠ .B → c.SameCsrs d ∧ d.pc = c.pc) ∧
    (sl ≠ .B → (∀ g a, i ≠ .cpyr g a) → d.sems = c.sems) ∧
    (sl ≠ .Q → sl ≠ .N → sl ≠ .L → d.ops = c.ops) ∧
    (sl ≠ .M → d.mq.map (fun (m : MEntry) => { m with satNext := false }) =
      c.mq.map fun (m : MEntry) => { m with satNext := false }) ∧
    (sl ≠ .M → (∀ g sc, i ≠ .fence g sc) → (∀ g, i ≠ .exit g) → d.mq = c.mq)

/-- R29, R60 and R62: isolation of contexts: a slot instruction changes nothing of the module but its own context and the
numbering of free values, and nothing of what its context was given at placement; what it does to its context depends on
that context, on DEVCFG and on that numbering alone. -/
def Obligations.SlotInstructionIsolation : Prop :=
  (∀ (s t : State) (c : Ctx) (i : Instr), isSlot i = true → s.cur = some c → exec i s = .next t →
    ∃ d, t = { s with cur := some d, fresh := t.fresh } ∧ c.SameIdentity d ∧ d.clock = c.clock ∧ d.replays = c.replays ∧
      d.issued ≤ c.issued + 1) ∧
  ∀ (s s' : State) (i : Instr), isSlot i = true → s.cur = s'.cur → s.devcfg = s'.devcfg → s.fresh = s'.fresh →
    match exec i s, exec i s' with
    | .next t, .next t' => t.cur = t'.cur ∧ t.fresh = t'.fresh
    | .refused r, .refused r' => r = r'
    | _, _ => False

/-- No event stops the module: every event of the opcode table answers a next state in every state; a step whose agenda names
events and V-cycles only answers a next state (assumption 1 of the model, DESIGN CHOICE); and a slot instruction without a
context at work is refused as noContext (assumption 69). What an event does where its conditions do not hold, nothing, follows
from R7, R37, R162, R243, R263, R274, R291, R305, R347, R362 and R387, which give each its conditions. -/
def Obligations.EventsNeverStop : Prop :=
  (∀ (i : Instr) (s : State), isSlot i = false → ∃ t, exec i s = .next t) ∧
  (∀ s : State, s.eventsOnly → ∃ t, step s = .next t) ∧
  ∀ (i : Instr) (s : State), isSlot i = true → s.cur = none → exec i s = .refused .noContext

/-- R2 and R39: every step keeps every memory of the module in canonical form: HBM, and LM, TS, AS and the instruction store
of every context. -/
def Obligations.StepKeepsMemoriesCanonical : Prop :=
  ∀ s t : State, s.memOk → step s = .next t → t.memOk

/-! ### Events: results, waits and requests of a context -/

/-- R7, R37, R89, R90, R98, R100, R101, R136, R162, R166, R170, R241, R335 and R345: a result in flight lands early, in its
destination with its flags, and the loads before a load that lands have been performed; a wait, a fence or an event wait that
holds its bundle and could retire puts its context in RUN, where the bundle is offered again (assumption 46 of the model,
DEDUCED); a SYS request is answered in s62, with all ones where Table 7.11 says so, and no earlier value lands there any more,
or handed to system software; a held LATOM is performed once what its release covers is performed at its scope, and a poisoned
location keeps its value and ends the context, with a report of class 1 and slot 5 (assumption 75, DESIGN CHOICE). -/
def Obligations.IssueEvents : Prop :=
  ∀ (s : State) (c : Ctx) (k : CtxKey), s.ctx k = some c → s.ctxs = [c] →
    (∀ i e, c.inflight[i]? = some e → e.held = false →
      let x := match e.dst with
        | some d => (c.store d e.val).spreadArith d e.due
        | none => c
      let older := c.inflight.take i
      ∃ t, exec (.resultLand k i) s = .next t ∧ t.ctxs = [{ x with
        inflight := (if e.load.isSome = true then older.map InFlight.settle else older) ++ c.inflight.drop (i + 1)
        fault := x.fault ||| ((e.flags.zeroExtend 64) <<< (59 : Nat)) }]) ∧
    (∀ v due, c.spreadArith (.csr 0x07) due = { c with
      mq := c.mq.map fun (m : MEntry) => if m.bundle + 1 < due then { m with satNext := c.satf8 } else m } ∧
      ∀ d, d ≠ .csr 0x07 → (c.store d v).spreadArith d due = c.store d v) ∧
    (∀ g : Guard, c.status = .waiting → c.sys = none → c.acqPending = false → c.guardOk g = true →
      (∀ sem n acq x, (c.insn .B = .wait g sem n acq ∨ c.insn .B = .waitd g sem n acq) → c.sems[sem.toNat]? = some x →
        c.poisonSem.contains sem.toNat = false → n.toNat ≤ x.count.toNat → c.relPending sem.toNat = false →
        ∃ t, exec (.waitRetire k) s = .next t ∧ t.ctxs = [{ c with status := .run }]) ∧
      (∀ ft, c.insn .B = .fnw g ft → (∀ o ∈ c.ops, ∀ n, (c.rft ft).upto = some n → o.bundle ≤ n → o.writesOut = true →
          o.writesDone (c.rft ft).scope = true) →
        ∃ t, exec (.fnwRetire k) s = .next t ∧ t.ctxs = [{ c with status := .run }]) ∧
      (∀ sc, c.insn .B = .fence g sc → c.quiet c.issued sc = true →
        ∃ t, exec (.fenceRetire k) s = .next t ∧ t.ctxs = [{ c with status := .run }]) ∧
      (∀ m j, c.insn .B = .evwait g m → j < 16 → m.getLsbD j = true → c.events.getLsbD j = true →
        ∃ t, exec (.evwaitRetire k) s = .next t ∧ t.ctxs = [{ c with status := .run }])) ∧
    (∀ r, c.sys = some r → s.distributes (c.site / 64) = true → c.status = .waiting →
      (∀ v, (r.code = 0x0001 ∧ v = s.capacity) ∨
          (r.code = 0x0002 ∧ ∃ w, s.queue (bitsOf r.s60.toNat 0 17) = some w ∧ w.asid = c.info.asid ∧ v = w.done) ∨
          (r.code = 0x0002 ∧ (∀ w, s.queue (bitsOf r.s60.toNat 0 17) = some w → w.asid ≠ c.info.asid) ∧ v = 2 ^ 64 - 1) ∨
          (r.code.toNat ≠ 0x0001 ∧ r.code.toNat ≠ 0x0002 ∧ r.code.toNat < 0x8000 ∧ v = 2 ^ 64 - 1) →
        ∃ t d, exec (.sysReply k) s = .next t ∧ t.ctxs = [d] ∧ d.status = .run ∧ d.sys = none ∧
          d.rs 62 = BitVec.ofNat 64 v ∧ (∀ i : Fin 64, i.val ≠ 62 → d.s[i] = c.s[i]) ∧
          ∀ e ∈ d.inflight, e.dst ≠ some (.s 62)) ∧
      (r.code.getLsbD 15 = true → r.asked = false →
        ∃ t, exec (.sysReply k) s = .next t ∧ t.ctxs = [{ c with sys := some { r with asked := true } }] ∧
          t.outbox = s.outbox ++ [.notify k r.code r.s60 r.s61])) ∧
    ∀ h, c.latom = some h → c.status ≠ .saved → s.releases c h.bundle none h.scope = true →
      (c.lmFault [h.off] (atomBytes h.ty) (atomBytes h.ty) true = none → (∀ o ∈ c.ops, o.kind ≠ .ratom) →
        ∃ t d, exec (.latomPerform k) s = .next t ∧ t.ctxs = [d] ∧ d.latom = none ∧ (∀ e ∈ d.inflight, e.held = false) ∧
          (∀ x, (x < h.off ∨ h.off + atomBytes h.ty ≤ x) → d.lm.byte x = c.lm.byte x) ∧
          (atomNew h.ty h.op (c.lm.num h.off (atomBytes h.ty)) h.val.toNat h.expd.toNat = none → d.lm = c.lm) ∧
          ∀ v, atomNew h.ty h.op (c.lm.num h.off (atomBytes h.ty)) h.val.toNat h.expd.toNat = some v →
            d.lm.num h.off (atomBytes h.ty) = v % 256 ^ atomBytes h.ty) ∧
      ∀ code dd, c.lmFault [h.off] (atomBytes h.ty) (atomBytes h.ty) true = some (code, dd) → c.fatal = none →
        ∃ t d, exec (.latomPerform k) s = .next t ∧ t.ctxs = [d] ∧ d.latom = none ∧ d.lm = c.lm ∧
          d.fatal = some ⟨Code.poison, 1, 5, dd⟩

/-- R19, R58, R82, R91, R102, R243, R244, R247 and R251: a write, an atomic and a routine whose turn it is at a channel change
HBM at their place only, and the response to a write goes back to a die that asked from elsewhere; a read answers a peer with
what lies there; a port's write changes the LM of its context, and no load in flight that has not read those bytes; a granule
of a CPYZ to own LM is asked for, by which the operations before it count as started. A copy reads its source (CPY, CPYLT), or
takes it from AS (CPYA), for the place in its destination that its operands give; and what a read brings, of LM or HBM, with
its poison marks, is what its operation writes at that place: a request to LM or HBM, or the bytes of TS (CPYT, CPYLT). -/
def Obligations.MemoryEvents : Prop :=
  (∀ (s : State) (ch pa : Nat) (b : Bid) (r : Req) (data : List Marked),
    (s.chan ch).arb.pick (s.chanBids ch) 0 = some b → s.reqs[b.i]? = some r →
    r.place = .hbm pa → r.kind = .write data → s.reachesAll pa data.length = true →
    ∃ t, exec (.channelServe ch) s = .next t ∧ t.reqs = s.reqs.eraseIdx b.i ∧
      (∀ x, t.hbm.byte x = if pa ≤ x ∧ x < pa + data.length then (data.getD (x - pa) (0, false)).1 else s.hbm.byte x) ∧
      (r.src ≠ paDie pa → (s.die r.src).inService = true → (s.die (paDie pa)).inService = true →
        t.transit = s.transit ++ [⟨paDie pa, paDie pa, r.src, none, r, .ack⟩])) ∧
  (∀ (s : State) (ch pa n dev tag : Nat) (b : Bid) (r : Req), (s.chan ch).arb.pick (s.chanBids ch) 0 = some b →
    s.reqs[b.i]? = some r → r.place = .hbm pa → r.kind = .read n [] [] none 0 → r.owner = none → r.ans = some (dev, tag) →
    r.src = paDie pa → ∃ t, exec (.channelServe ch) s = .next t ∧ t.reqs = s.reqs.eraseIdx b.i ∧ t.hbm = s.hbm ∧
      t.clpSent = s.clpSent ++ [⟨none, dev, .answer tag (s.hbmRead pa n) 0 0⟩]) ∧
  (∀ (s : State) (ch pa : Nat) (b : Bid) (r : Req) (a : AtomTy) (op : AtomOp) (v e : Word) (new : Nat),
    (s.chan ch).arb.pick (s.chanBids ch) 0 = some b → s.reqs[b.i]? = some r → r.place = .hbm pa →
    r.kind = .atomic a op v e → (s.hbmRead pa (atomBytes a)).all (fun b => !b.2) = true →
    s.reachesAll pa (atomBytes a) = true →
    atomNew a op (s.hbm.num pa (atomBytes a)) v.toNat e.toNat = some new →
    ∃ t, exec (.atomicPerform (.channel ch)) s = .next t ∧
      ∀ x, t.hbm.byte x = if pa ≤ x ∧ x < pa + atomBytes a then BitVec.ofNat 8 (new / 256 ^ (x - pa)) else s.hbm.byte x) ∧
  (∀ (s : State) (ch pa n : Nat) (b : Bid) (r : Req) (recd : List Byte) (m : Core32),
    (s.chan ch).arb.pick (s.chanBids ch) 0 = some b → s.reqs[b.i]? = some r → r.place = .hbm pa → r.kind = .atomx n recd →
    (s.hbmRead pa 64).all (fun b => !b.2) = true → s.reachesAll pa 64 = true →
    runRoutine n recd (s.hbm.read pa 64) = .ok m → m.wrote = true → m.line.length = 64 →
    ∃ t, exec (.atomxRoutineRun ch) s = .next t ∧
      ∀ x, t.hbm.byte x = if pa ≤ x ∧ x < pa + 64 then m.line.getD (x - pa) 0 else s.hbm.byte x) ∧
  (∀ (s : State) (c : Ctx) (i off site : Nat) (r : Req) (data : List Marked), s.portPick site = some i →
    s.reqs[i]? = some r → r.place = .lm c.key off → r.kind = .write data → s.ctxs = [c] → c.status ≠ .saved →
    s.ctxLost c.key = false →
    ∃ t d, exec (.lmPortServe site) s = .next t ∧ t.ctxs = [d] ∧ t.hbm = s.hbm ∧
      (c.racing off data.length = false → d.inflight = c.inflight) ∧
      ∀ x, d.lm.byte x = if off ≤ x ∧ x < off + data.length then (data.getD (x - off) (0, false)).1 else c.lm.byte x) ∧
  (∀ (s : State) (c : Ctx) (o : Op), s.ctxs = [c] → c.op o.e = some o → o.kind = .cpyz → ctlDsp o.ctl = true →
    s.expressWaits c (decide (32 ≤ o.e)) = false → s.opReady c o = true → o.isRelease = false →
    let off := (o.dst.toNat + o.next) % 2 ^ 64
    let len := min (o.total - o.next) (64 - off % 64)
    off + len ≤ c.lmSize →
    ∃ t, exec (.copyRequestServe c.key o.e) s = .next t ∧
      t.reqs = s.reqs ++ [c.reqOf o (.lm c.key off) false (.write (clean (List.replicate len 0)))] ∧
      (t.ctxs.flatMap Ctx.ops) = (c.startUpTo o.e).ops.map fun (y : Op) =>
        if y.e = o.e then { y with next := y.next + len, out := y.out + 1, carry := [] } else y) ∧
  (∀ (s : State) (c : Ctx) (o : Op), s.ctxs = [c] → c.op o.e = some o → s.expressWaits c (decide (32 ≤ o.e)) = false →
    s.opReady c o = true → o.isRelease = false → o.next < o.total → o.carry = [] → c.mq = [] → c.latom = none →
    let lm := (o.dst.toNat + o.next) % 2 ^ 64
    let ts := 256 * (o.dst.toNat % 4096) + 32 * (o.dst.toNat / 4096 % 8) + o.next
    let own := (o.src.toNat + o.next) % 2 ^ 64
    let plane := o.src.toNat + o.next
    let len := fun (dst : Nat) => min (o.total - o.next) (64 - dst % 64)
    let more := fun (src n : Nat) => min (o.total - o.next - n) ((8 - (src + n) % 8) % 8)
    let reads := fun (dst : Place) (n : Nat) => ∃ t p m rest, exec (.copyRequestServe c.key o.e) s = .next t ∧
      inGranules (n + more own n) own (.lm c.key) = (p, m) :: rest ∧
      t.reqs = s.reqs ++ [c.reqOf o p false (.read m rest [] (some dst) (more own n))]
    (o.kind = .cpy → ctlDsp o.ctl = true → ctlSsp o.ctl = true → lm + len lm ≤ c.lmSize →
      own + len lm + more own (len lm) ≤ c.lmSize → reads (.lm c.key lm) (len lm)) ∧
    (o.kind = .cpylt → ts + len ts ≤ c.tsSize → own + len ts + more own (len ts) ≤ c.lmSize →
      reads (.ts c.key ts) (len ts)) ∧
    (o.kind = .cpya → ctlDsp o.ctl = true → lm + len lm ≤ c.lmSize → plane + len lm + more plane (len lm) ≤ c.asSize →
      ∃ t d, exec (.copyRequestServe c.key o.e) s = .next t ∧ t.ctxs = [d] ∧ c.SameStores d ∧ c.SameRegs d ∧
        t.reqs = s.reqs ++ [c.reqOf o (.lm c.key lm) false (.write (markedRead c.as c.poisonAs plane (len lm)))])) ∧
  ∀ (s : State) (c : Ctx) (o : Op) (r : Req) (n e : Nat) (d : Place), s.ctxs = [c] → c.status ≠ .saved →
    s.ctxLost c.key = false → c.op e = some o → o.snap = [] → r.owner = some (c.key, e) →
    r.kind = .read n [] [] (some d) 0 → o.next = r.pos + n → r.src = c.site / 64 →
    s.homeDie { r with place := d } = r.src →
    let writes := fun (t : State) (data : List Marked) =>
      (∀ a, d = .hbm a ∨ d = .lm c.key a → ∃ q ∈ t.reqs, q.place = d ∧ q.owner = r.owner ∧ q.kind = .write data) ∧
      ∀ a, d = .ts c.key a → ∃ x, t.ctxs = [x] ∧ x.poisonTs = poisonWrite c.poisonTs 8 a (data.map Prod.snd) ∧
        ∀ b, x.ts.byte b = if a ≤ b ∧ b < a + n then (data.getD (b - a) (0, false)).1 else c.ts.byte b
    (∀ site i off, s.portPick site = some i → s.reqs[i]? = some r → r.place = .lm c.key off →
      ∃ t, exec (.lmPortServe site) s = .next t ∧ writes t (markedRead c.lm c.poisonLm off n)) ∧
    ∀ ch pa b, (s.chan ch).arb.pick (s.chanBids ch) 0 = some b → s.reqs[b.i]? = some r → r.place = .hbm pa →
      paDie pa = r.src → ∃ t, exec (.channelServe ch) s = .next t ∧ writes t (s.hbmRead pa n)

/-- R35, R65, R66, R73, R74, R75, R77, R78 and R349: a walker reads its entry: a fault stays for the accesses that wait and is
not cached, a pointer leads on, and a leaf that admits some access is cached, its own or one of its run; an invalidation
completes; and what each message of another device brings. The model's own: which leaf of a run a walk takes (assumption 10),
the message forms (44, DEDUCED), the news of a member's end and that every member has ended (assumptions 52 and 100, DESIGN
CHOICE and DEDUCED), a message that waits for its translation (26), and a walk's end kept for those that wait (70). -/
def Obligations.TranslationAndMessageEvents : Prop :=
  (∀ (s : State) (d i : Nat) (w : Walker), d < s.dies.length → (s.die d).walkers[i]? = some w → w.ended = none →
    s.walkReady d w = true → (s.hbmRead w.pa 8).all (fun b => !b.2) = true →
    let e := s.hbmNum w.pa 8
    (entryKind w.lvl e = .notMapped → (∃ a ∈ w.askers, s.asksOn a.1 = true) →
      ∃ t x, exec (.walkReadReturn d i) s = .next t ∧ x ∈ (t.die d).walkers ∧ x.ended = some .notMapped ∧
        x.asid = w.asid ∧ x.va = w.va ∧ x.askers = w.askers ∧ (t.die d).tlb = (s.die d).tlb) ∧
    (∀ p, entryKind w.lvl e = .pointer p → ∃ t x, exec (.walkReadReturn d i) s = .next t ∧
      (t.die d).walkers[i]? = some x ∧ x.ended = none ∧ x.lvl = w.lvl + 1 ∧
      x.pa = entryAddr p w.asid w.va (w.lvl + 1) ∧ x.askers = w.askers) ∧
    (entryKind w.lvl e = .leaf → w.nocache = false → ∃ t lvl leaf, exec (.walkReadReturn d i) s = .next t ∧
      ((lvl = w.lvl ∧ leaf = e) ∨
        (w.lvl = 3 ∧ lvl = 4 ∧ leaf.testBit 15 = true ∧ ∃ j, j < 32 ∧ leaf = s.hbmNum (w.pa / 256 * 256 + 8 * j) 8)) ∧
      ((∃ a ∈ w.askers, permits leaf a.2 = true) →
        (⟨w.asid, vpnOf lvl w.va, lvl, BitVec.ofNat 64 leaf⟩ : Tlb) ∈ (t.die d).tlb) ∧
      ((∀ a ∈ w.askers, permits leaf a.2 = false) → (t.die d).tlb = (s.die d).tlb))) ∧
  (∀ s : State, s.invBusy = true → s.invDone = true → ∃ t, exec .invalidationComplete s = .next t ∧ t.invBusy = false ∧
    t.invSeq = s.invSeq + 1 ∧ (∀ d ∈ t.dies, ∀ x ∈ d.tlb, x.named s.invctl s.invAt = false) ∧
    ∀ y ∈ t.sites, ∀ x ∈ y.tlbQ ++ y.tlbN, x.named s.invctl s.invAt = false) ∧
  ∀ (s : State) (die src tag : Nat) (gid : Word32) (a : Word) (op : ClpOp) (data : List Marked) (code detail : Nat),
    let sends := fun (t : State) (m : ClpMsg) => t.clpSent = s.clpSent ++ [⟨none, src, m⟩]
    let asks := fun (t u : State) (p : Place) =>
      ∃ r, t.reqs = u.reqs ++ [r] ∧ r.place = p ∧ r.kind = clpKind op ∧ r.ans = some (src, tag) ∧ r.src = die
    (s.groupTract gid = none →
      (∃ t, exec (.remoteArrival (.lmRequest die src tag gid a op)) s = .next t ∧
        sends t (.answer tag [] 0x33 (targetDetail a)) ∧ t.hbm = s.hbm ∧ t.ctxs = s.ctxs) ∧
      ∃ t, exec (.remoteArrival (.vaRequest die src tag gid a op)) s = .next t ∧
        sends t (.answer tag [] 0x33 s.devId) ∧ t.hbm = s.hbm ∧ t.ctxs = s.ctxs) ∧
    (∀ c k x, s.groupTract gid = some c → rlDev a.toNat = s.devId → s.member c.key.tract c.info.grank a.toNat = .here k →
      s.ctx k = some x → x.status ≠ .saved → x.site / 64 = die →
      ((∀ inc, op ≠ .signal inc) →
        (x.lmSize < rlOff a.toNat + clpBytes op → ∃ t, exec (.remoteArrival (.lmRequest die src tag gid a op)) s = .next t ∧
          sends t (.answer tag [] Code.lmRange s.devId)) ∧
        (rlOff a.toNat + clpBytes op ≤ x.lmSize → ∃ t,
          exec (.remoteArrival (.lmRequest die src tag gid a op)) s = .next t ∧ asks t s (.lm k (rlOff a.toNat)))) ∧
      ∀ inc, op = .signal inc → bitsOf a.toNat 0 8 < x.part.sem * 32 → x.poisonSem.contains (bitsOf a.toNat 0 8) = false →
        ∃ t, exec (.remoteArrival (.lmRequest die src tag gid a op)) s = .next t ∧ sends t (.answer tag [] 0 0) ∧
          t.ctxs = (s.modCtx k fun y => y.semAdd (bitsOf a.toNat 0 8) inc).ctxs) ∧
    (∀ c, s.groupTract gid = some c → s.msgBehind (.vaRequest die src tag gid a op) src = false →
      let x := s.xlate (.port die) c.info.asid (bitsOf a.toNat 0 47) (clpNeed op) (.msg (.vaRequest die src tag gid a op))
      (∀ pa old, x.2 = .ok pa old → paDie pa = die → ∃ t,
        exec (.remoteArrival (.vaRequest die src tag gid a op)) s = .next t ∧ asks t s (.hbm pa)) ∧
      (∀ f pa, x.2 = .fault f pa → f ≠ Code.poison → ∃ t,
        exec (.remoteArrival (.vaRequest die src tag gid a op)) s = .next t ∧ sends t (.answer tag [] f 4)) ∧
      (x.2 = .pending → ∃ t, exec (.remoteArrival (.vaRequest die src tag gid a op)) s = .next t ∧
        .vaRequest die src tag gid a op ∈ t.inbox ∧ t.clpSent = s.clpSent)) ∧
    (∀ c y o, s.ctxs = [c] → c.ops = [y] → s.clpOut = [o] → o.tag = tag → o.req.owner = some (c.key, y.e) → o.req.ans = none →
      o.port / 4 = o.req.src → (∃ bs, o.req.kind = .write bs) →
      (code = 0 → ∃ t, exec (.remoteArrival (.answer tag data code detail)) s = .next t ∧ t.clpOut = [] ∧
        t.ctxs = [{ c with ops := [y.less o.req] }]) ∧
      (code ≠ 0 → y.fault = none → ∃ t d z, exec (.remoteArrival (.answer tag data code detail)) s = .next t ∧
        t.clpOut = [] ∧ t.ctxs = [d] ∧ d.ops = [z] ∧
        z.fault = some (c.copyReport y code (s.answerDetail o.req code detail)))) ∧
    ((∀ o ∈ s.clpOut, o.tag ≠ tag) → exec (.remoteArrival (.answer tag data code detail)) s = .next s) ∧
    (∃ t, exec (.remoteArrival (.news gid)) s = .next t ∧ t.agenda = .event (.peerEndNews gid) :: s.agenda) ∧
    ∃ t, exec (.remoteArrival (.groupDone gid)) s = .next t ∧ t.groups = s.groups.filter (fun g => g.gid != gid.toNat) ∧
      t.ctxs = s.ctxs ∧ t.launches = s.launches

/-- R98, R99, R164, R244, R257, R337, R339, R340 and R342: a finished operation frees its entry and adds its increment, an RSIG
none; one that a recoverable fault has stopped is cut, with a resume record in LM and a mark, and behind the EXIT the cut ends
the context, its record and mark left as well (assumption 30 of the model, DEDUCED); one that a fatal fault has stopped frees
its entry and ends the context; a queued SIG adds its increment, a release once what it covers is performed at its scope, the
loads in flight among it, each behind every earlier one on its semaphore. -/
def Obligations.OperationEvents : Prop :=
  ∀ (s : State) (c : Ctx) (o : Op) (x : Sem), s.ctxs = [c] → c.op o.e = some o → (c.status = .run ∨ c.status = .exited) →
    c.sems[ctlSem o.ctl]? = some x → c.poisonSem = [] →
    (o.finished = true → ∃ t d, exec (.copyComplete c.key o.e) s = .next t ∧ t.ctxs = [d] ∧ d.op o.e = none ∧ d.lm = c.lm ∧
      (o.kind ≠ .rsig → d.sems = c.sems.set (ctlSem o.ctl) { x with count := x.count + ctlInc o.ctl }) ∧
      (o.kind = .rsig → d.sems = c.sems)) ∧
    (∀ r, o.fault = some r → r.cls = 3 → r.code < 256 → o.out = 0 → o.cut = none → 8192 ≤ c.lmSize → o.e < 64 →
      ∃ t d y, exec (.copyCut c.key o.e) s = .next t ∧ t.ctxs = [d] ∧ d.op o.e = some y ∧ y.cut = some r ∧
        d.sems = c.sems.set (ctlSem o.ctl) { x with marks := min 255 (x.marks + 1) } ∧
        (c.status = .run → bitsOf d.fault.toNat 0 8 = r.code ∧ d.fatal = c.fatal) ∧
        (c.status = .exited → c.fatal = none → d.fatal.map Report.code = some Code.cutAtExit) ∧
        (∀ a, (a < c.lmSize - 8192 + 128 * o.e ∨ c.lmSize - 8192 + 128 * o.e + 128 ≤ a) → d.lm.byte a = c.lm.byte a) ∧
        d.lm.num (c.lmSize - 8192 + 128 * o.e + 40) 8 = o.next % 2 ^ 64) ∧
    (∀ r, o.fault = some r → r.cls = 4 → o.out = 0 → o.kind ≠ .mcast → c.fatal = none →
      ∃ t d, exec (.copyFatal c.key o.e) s = .next t ∧ t.ctxs = [d] ∧ d.op o.e = none ∧ d.fatal = some r ∧
        d.sems = c.sems) ∧
    (∀ (r : Release) (y : Sem), c.rels = [r] → (r.covers = true → s.releases c r.bundle none r.scope = true) →
      c.sems[r.sem]? = some y → ∃ t d, exec (.releasePerform c.key 0) s = .next t ∧ t.ctxs = [d] ∧ d.rels = [] ∧
        d.sems = c.sems.set r.sem { y with count := y.count + r.inc } ∧
        (r.covers = true → d.inflight = c.settleLoads.inflight) ∧ (r.covers = false → d.inflight = c.inflight)) ∧
    ∀ q r : Release, c.rels = [q, r] → q.sem = r.sem → exec (.releasePerform c.key 1) s = .next s

/-- R112, R131, R158, R217, R218, R226, R230, R231, R232, R234 and R235: the engine takes up the head entry of a context, with
MODE.ARITH as it stands then for the entry's bundle; the end of its unit gives MSET and MADD their results and takes the entry
out; the end of a repetition that REPM governs advances each register that names a TS operand, once, and leaves one repetition
less, and so does one whose guard is false, with no other effect; an MMAG posts its slices; a slice that fits waits for its
step, and one of a step that the receiver has completed has no effect (assumption 80 of the model, DEDUCED). -/
def Obligations.MatrixEvents : Prop :=
  ∀ (s : State) (c : Ctx) (m : MEntry) (rest : List MEntry), s.ctxs = [c] → c.mq = m :: rest → s.mMoves c = true →
    (m.running = false → m.active = false → m.governed = false → isMmag m.ins = false → c.unitFault m.ins = none →
      (∀ e ∈ rest, e.active = false) → (planesWritten c m.ins 1).any (c.planeAwaited m.bundle) = false →
      ∃ t d, exec (.mUnitStart c.site) s = .next t ∧ t.ctxs = [d] ∧
        d.mq = { m with running := true, active := true, satf8 := m.satNext } :: rest ∧ c.SameRegs d ∧ c.SameStores d) ∧
    (∀ g ty ch mx my ms mt, m.ins = .mmag g ty ch mx my ms mt → m.running = false →
      (m.governed = true → c.guardOk g = true) → c.unitFault m.ins = none →
      (planesWritten c m.ins 1).any (c.planeAwaited m.bundle) = false → ∃ t d, exec (.mUnitStart c.site) s = .next t ∧
        t.ctxs = [d] ∧ d.mq = { m with running := true, satf8 := m.satNext } :: rest ∧
        d.mmagOut = c.mmagOut ++ c.slices ty ch mx my ∧ c.SameRegs d ∧ c.SameStores d) ∧
    (m.governed = true →
      let left := if m.reps ≤ 1 then rest else { m with reps := m.reps - 1, running := false, active := false } :: rest
      let step := fun (v : Word32) => ((maRow v : Int) + sextInt (v.toNat / 2 ^ 22) 10) % 4096
      let advanced := fun (d : Ctx) => ∀ j ∈ mOperands m.ins,
        (maRow (d.rma j) : Int) = step (c.rma j) ∧ (d.rma j).toNat / 4096 = (c.rma j).toNat / 4096
      (m.running = false → m.active = false → c.guardOk (guardOf m.ins) = false → (∀ e ∈ rest, e.active = false) →
        (planesWritten c m.ins 1).any (c.planeAwaited m.bundle) = false → ∃ t d, exec (.mUnitStart c.site) s = .next t ∧
          t.ctxs = [d] ∧ d.mq = left ∧ advanced d ∧ (∀ j, j ∉ mOperands m.ins → d.rma j = c.rma j) ∧ d.ch = c.ch ∧
          c.SameStores d) ∧
      (m.active = true → mRepeats m.ins = true → c.poisonTs = [] → c.poisonAs = [] → ∃ t d,
        exec (.mUnitEnd c.site) s = .next t ∧ t.ctxs = [d] ∧ d.mq = left ∧ advanced d ∧ d.ch = (c.unitEffect m).ch ∧
        d.ts = (c.unitEffect m).ts ∧ d.as = (c.unitEffect m).as ∧
        ∀ j, j ∉ mOperands m.ins → d.rma j = (c.unitEffect m).rma j)) ∧
    (m.active = true → m.reps ≤ 1 →
      (∀ g md imm, m.governed = false → m.ins = .mset g md imm → ∃ t d, exec (.mUnitEnd c.site) s = .next t ∧ t.ctxs = [d] ∧
        d.mq = rest ∧ d.rma md = BitVec.ofInt 32 (widened m.lent 16 imm) ∧ (∀ j, j ≠ md → d.rma j = c.rma j) ∧ d.ch = c.ch) ∧
      (∀ g md imm, m.ins = .madd g md imm → ∃ t d, exec (.mUnitEnd c.site) s = .next t ∧ t.ctxs = [d] ∧
        d.mq = rest ∧ d.rma md = c.rma md + BitVec.ofInt 32 (widened m.lent 16 imm) ∧ ∀ j, j ≠ md → d.rma j = c.rma j)) ∧
    (∀ (ty : MatTy) (ch : BitVec 3) (x : Slice) (xs : List Slice), c.runningStep = some (ty, ch) → c.mmagOut = x :: xs →
      x.dest = c.key.rank → x.step = c.mmagStep → (∀ y ∈ xs, c.mmagStep ≤ y.step) → c.sliceFits ty ch x = true →
      ∃ t d, exec (.mmagSliceArrive c.key c.key.rank) s = .next t ∧ t.ctxs = [d] ∧ d.mmagOut = xs ∧
        d.mmagIn = c.mmagIn ++ [x] ∧ d.fatal = c.fatal) ∧
    ∀ (x : Slice) (xs : List Slice), c.mmagOut = x :: xs → x.dest = c.key.rank → x.step < c.mmagStep →
      ∃ t, exec (.mmagSliceArrive c.key c.key.rank) s = .next t ∧ t.ctxs = [{ c with mmagOut := xs }]

/-- R123, R124, R221 to R224, R227, R228, R230, R232 and R233: what the units of MOPEN, MCLOSE, MCOMB, MSCALE, MCFG, MLDA, MMA,
MMAG and MOUT do. A chunk's sum is carried through the occupied levels, the lower range on the right, into the first free one
or the head; MCLOSE folds what is left into the head; both write that plane alone. An MMAG multiplies the panels that its
slices make up and goes on to its next step. MOUT writes the converted elements in panel order. That a table with an entry that
is not positive and finite is not taken at the unit's end is the model's choice (assumption 20). -/
def Obligations.MatrixUnitResults : Prop :=
  ∀ (c : Ctx) (m : MEntry) (g : Guard) (ch chb : BitVec 3) (h d pl : BitVec 5) (cs : BitVec 3) (mk mx my ms mt : BitVec 4)
    (t : FpTy) (ty : MatTy) (cfg : BitVec 20) (rm : Rm),
    (m.ins = .mcfg g cfg → (c.unitEffect m).mcfg = cfg ∧ c.SameStores (c.unitEffect m)) ∧
    (∀ x, m.ins = .mopen g ch h d cs mk → c.openChain h.toNat d.toNat cs.toNat mk = some x →
      (c.unitEffect m).rch ch = x ∧ (∀ j, j ≠ ch → (c.unitEffect m).rch j = c.rch j) ∧
      (c.unitEffect m).mcfg.getLsbD 2 = false) ∧
    (m.ins = .mclose g ch →
      let q := c.rch ch
      let plane := fun (l e : Nat) => c.as.num (65536 * (q.h + 1 + l) + 4 * e) 4
      let more := fun (e : Nat) (v : Option Nat) (l : Nat) => match v with
        | none => some (plane l e)
        | some x => some (if q.kind = true then (plane l e + x) % 2 ^ 32 else add32 (plane l e) x)
      (c.unitEffect m).rch ch = { q with state := .closed } ∧ (∀ j, j ≠ ch → (c.unitEffect m).rch j = c.rch j) ∧
      (q.m = 2 ^ q.d → (c.unitEffect m).as = c.as) ∧
      (q.m ≠ 2 ^ q.d →
        (∀ e, e < 16384 → (c.unitEffect m).as.num (65536 * q.h + 4 * e) 4 =
          ((((List.range q.d).filter fun l => q.occ.testBit l).foldl (more e) none).getD
            (c.as.num (65536 * q.h + 4 * e) 4)) % 2 ^ 32) ∧
        ∀ a, (a < 65536 * q.h ∨ 65536 * q.h + 65536 ≤ a) → (c.unitEffect m).as.byte a = c.as.byte a)) ∧
    (m.ins = .mcomb g ch chb → (c.unitEffect m).rch ch = { c.rch ch with lw := (c.rch ch).lw + 1 } ∧
      ∀ e, e < 16384 → (c.unitEffect m).as.num (65536 * (c.rch ch).h + 4 * e) 4 =
        (if (c.rch ch).kind = true then
          c.as.num (65536 * (c.rch ch).h + 4 * e) 4 + c.as.num (65536 * (c.rch chb).h + 4 * e) 4
        else add32 (c.as.num (65536 * (c.rch ch).h + 4 * e) 4) (c.as.num (65536 * (c.rch chb).h + 4 * e) 4)) % 2 ^ 32) ∧
    (∀ tab, m.ins = .mscale g tab mx →
      let entry := fun (j : Nat) => c.ts.num (256 * maRow (c.rma mx) + 32 * maSeg (c.rma mx) + 4 * j) 4
      ((∀ j, j < 16 → posFin (entry j) = true) → ∀ j : Fin 16,
        (if tab = true then (c.unitEffect m).tabB[j] else (c.unitEffect m).tabA[j]) = BitVec.ofNat 32 (entry j.val)) ∧
      ((∃ j, j < 16 ∧ posFin (entry j) = false) → (c.unitEffect m).tabA = c.tabA ∧ (c.unitEffect m).tabB = c.tabB)) ∧
    (m.ins = .mlda g pl mx t → ∀ e, e < 16384 → (c.unitEffect m).as.num (65536 * pl.toNat + 4 * e) 4 =
      (cvtCode .f32 .rne false (t.val (panelAt (tsPanel c (maRow (c.rma mx))) t.width (e / 128) (e % 128)))).1 % 2 ^ 32) ∧
    (∀ mmag : Bool, m.ins = (if mmag = true then .mmag g ty ch mx my ms mt else .mma g ty ch mx my ms mt) →
      let q := c.rch ch
      let plane := fun (l e : Nat) => c.as.num (65536 * (q.h + 1 + l) + 4 * e) 4
      let sum := fun (e : Nat) => (c.product mmag ty ch mx my ms mt).sum (e / 128) (e % 128)
      let carried := fun (e v l : Nat) => if mtInt ty = true then (plane l e + v) % 2 ^ 32 else add32 (plane l e) v
      (c.unitEffect m).rch ch = { q with
        m := q.m + 1, occ := (q.m + 1) % 2 ^ q.d, kset := true, kind := mtInt ty } ∧
      (∀ j, j ≠ ch → (c.unitEffect m).rch j = c.rch j) ∧ (c.unitEffect m).ts = c.ts ∧
      (mmag = true → (c.unitEffect m).mmagIn = [] ∧ (c.unitEffect m).mmagStep = c.mmagStep + 1) ∧
      ∀ n, n ≤ q.d → (∀ l, l < n → q.occ.testBit l = true) → (n = q.d ∨ q.occ.testBit n = false) →
        let p := if n = q.d then q.h else q.h + 1 + n
        (∀ e, e < 16384 → (c.unitEffect m).as.num (65536 * p + 4 * e) 4 =
          (List.range n).foldl (carried e) (sum e) % 2 ^ 32) ∧
        ∀ a, (a < 65536 * p ∨ 65536 * p + 65536 ≤ a) → (c.unitEffect m).as.byte a = c.as.byte a) ∧
    (let rows := (c.rch ch).size * mtWidth ty / 128
      let p := c.product true ty ch mx my ms mt
      ∀ (i b : Nat) (x : Slice), b < 256 * rows →
        (c.mmagIn.find? (fun y => y.isA && y.sender % 8 == i) = some x → p.a (256 * rows * i + b) = x.bytes.getD b 0) ∧
        (c.mmagIn.find? (fun y => !y.isA && y.sender / 8 == i) = some x → p.b (256 * rows * i + b) = x.bytes.getD b 0)) ∧
    (m.ins = .mout g pl mx t rm → (c.unitEffect m).as = c.as ∧
      (∀ i j, i < 128 → j < 128 → panelAt (tsPanel (c.unitEffect m) (maRow (c.rma mx))) t.width i j =
        (cvtCode t (if rm = .rtz then .rtz else .rne) m.satf8
          (FpTy.f32.val (c.as.num (65536 * pl.toNat + 512 * i + 4 * j) 4))).1 % 2 ^ t.width) ∧
      ∀ x, (x < 256 * maRow (c.rma mx) ∨ 256 * (maRow (c.rma mx) + outRows t) ≤ x) →
        (c.unitEffect m).ts.byte x = c.ts.byte x)

/-! ### Events: the host -/

/-- R15, R21, R77, R305, R306, R307, R308, R309, R350, R353, R358 and R362: a request of the host whose turn it is in its stream
is performed and acknowledged once, and the stream goes on; one that comes before its turn, or whose way to its die is not open,
waits; the acknowledgement of one that has been performed is repeated. Site numbers come of raw coordinates by the rotation
that a die's ORIENT gives. The model's own: half of the number space as the test of a repeat, and the repeated acknowledgement
(assumption 57, DEDUCED), that a request waits in a list and is looked at again in its order (58, DEDUCED), which host port
stands on which die (59), and that a stream begins with 0 (84). -/
def Obligations.HostRegisterEvents : Prop :=
  (siteNumber 1 2 5 = 82 ∧ (∀ x y, normalise 0 x y = (y, x) ∧ normalise 1 x y = (x, 7 - y) ∧
    normalise 2 x y = (7 - y, 7 - x) ∧ normalise 3 x y = (7 - x, y)) ∧ ∀ d, d < 4 → orientOf d % 4 = d) ∧
  ∀ (s : State) (h : Mht) (v : Word), s.powered = true → (s.die (hostDie h.port)).inService = true →
    (2 ^ 31 ≤ s.streamLead h → ∀ m, s.acked h = some m →
      exec (.mhtRegwr h 0x100 v) s = .next { s with outbox := s.outbox ++ [m] }) ∧
    (0 < s.streamLead h → s.streamLead h < 2 ^ 31 →
      exec (.mhtRegwr h 0x100 v) s = .next { s with deferred := s.deferred ++ [.mhtRegwr h 0x100 v] }) ∧
    (s.streamLead h = 0 → s.hostWaits h = true →
      exec (.mhtRegwr h 0x100 v) s = .next { s with deferred := s.deferred ++ [.mhtRegwr h 0x100 v] }) ∧
    (s.streamLead h = 0 → s.hostWaits h = false → h.die < 4 → s.dies.length = 4 → (s.die h.die).inService = true →
    s.booted h.die = true → s.repl = none →
    let acks := fun (t : State) (ok : Bool) (code : Nat) (data : List Byte) => t.outbox = s.outbox ++ [.ack h ok code data] ∧
      t.streamNext h = (s.streamNext h + 1) % 2 ^ 32 ∧ t.agenda = s.deferred.map Turn.event ++ s.agenda ∧ t.deferred = []
    (∃ t, exec (.mhtRegrd h 0x100) s = .next t ∧ acks t true 0 (leBytes 8 s.astbase.toNat)) ∧
    (∃ t, exec (.mhtRegrd h 0x10) s = .next t ∧ acks t true 0 (leBytes 8 (orientOf h.die))) ∧
    (∃ t, exec (.mhtRegwr h 0x100 v) s = .next t ∧ acks t true 0 [] ∧
      ∀ j, t.astbase.getLsbD j = (decide (19 ≤ j ∧ j < 40) && v.getLsbD j)) ∧
    (s.invBusy = false → bitsOf v.toNat 3 5 = 0 → bitsOf v.toNat 32 16 = 0 →
      let accepted := fun (i : Instr) => ∃ t, exec i s = .next t ∧ acks t true 0 [] ∧ t.invBusy = true ∧ t.invctl = v ∧
        ∀ d ∈ t.dies, ∀ x ∈ d.tlb, x.named v s.invva = false
      (invKind v = 0 → accepted (.invAll h v)) ∧ (invKind v = 1 → accepted (.invAsid h v)) ∧
      (invKind v = 2 → 0 < invCount v → bitsOf s.invva.toNat 16 40 + invCount v ≤ 2 ^ 40 → accepted (.invRange h v)) ∧
      (invKind v = 3 → accepted (.invGlobal h v))) ∧
    (s.devSet = false → ∃ t, exec (.devcfgWrite h v) s = .next t ∧ acks t true 0 [] ∧ t.devSet = true ∧
      t.devId = v.toNat % 512) ∧
    (s.devSet = true → ∃ t, exec (.devcfgWrite h v) s = .next t ∧ acks t false 0 [] ∧ t.devcfg = s.devcfg) ∧
    (s.routeWaits h = true → ∀ i, exec (.routeEntryWrite h i v) s =
      .next { s with deferred := s.deferred ++ [.routeEntryWrite h i v] }) ∧
    (∀ i, i < 512 → s.routes.length = 512 → s.routeWaits h = false →
      ∃ t w, exec (.routeEntryWrite h i v) s = .next t ∧ acks t true 0 [] ∧
      t.routes = s.routes.set i w ∧ w.getLsbD 63 = v.getLsbD 63 ∧ bitsOf w.toNat 0 4 = bitsOf v.toNat 0 4 ∧
      bitsOf w.toNat 6 2 = bitsOf v.toNat 6 2 ∧ bitsOf w.toNat 24 24 = bitsOf v.toNat 24 24) ∧
    (s.images = [] → bitsOf (s.die h.die).savebase.toNat 0 8 = 0 → ∃ t, exec (.savebaseWrite h v) s = .next t ∧
      acks t true 0 [] ∧ ∀ j, (t.die h.die).savebase.getLsbD j =
        (decide (j < 8 ∨ 30 ≤ j ∧ j < 40) && v.getLsbD j)) ∧
    (∀ l x, s.launches = [l] → l.phase = .placed x.id → s.tracts = [x] → x.state = .running → s.endCause x = none →
      l.q = bitsOf v.toNat 0 17 → l.seq % 2 ^ 47 = v.toNat / 2 ^ 17 → l.q / 32768 = h.die →
      ∃ t, exec (.tkill h v) s = .next t ∧ acks t true 0 [] ∧ t.tracts = [{ x with cause := some ⟨4, 0, 0xFFFF, 0⟩ }]) ∧
    (∃ t, exec (.errsumClear h v) s = .next t ∧ acks t true 0 [] ∧
      ∀ j, j < 5 → (t.die h.die).sticky.getLsbD j = ((s.die h.die).sticky.getLsbD j && !v.getLsbD j)) ∧
    (∀ i, i < 64 → s.sites.length = 256 → v.getLsbD 34 = true → (s.site (64 * h.die + i)).fenced = false →
      ∃ t, exec (.fenceRequest h i v) s = .next t ∧ acks t true 0 [] ∧ (t.site (64 * h.die + i)).wantFence = true))

/-- R165, R170, R303, R306, R307, R310, R311, R313, R314, R366, R368 and R386: reads and writes of HBM, which wait while the way
from the die to that HBM carries no requests, loading and staging firmware, attestation, posted events, replies and a Steppe
request; a locked die refuses firmware with LOCKED, whether an image runs there or not. The layout of the report of an ATTEST is
assumption 6 of the model, BOOTLOAD as one whole image assumption 86, an image of an earlier stage, which counts as one that has
posted its heartbeat, assumption 114 (all DESIGN CHOICE), that a request waits in a list assumption 58, and that an event for a
SAVED context waits with it assumption 130 (both DEDUCED). -/
def Obligations.HostRequestEvents : Prop :=
  (∀ (s : State) (h : Mht) (img : List Byte) (target pa : Nat), s.powered = true →
    (s.die (hostDie h.port)).inService = true → s.streamLead h = 0 → s.hostWaits h = false → h.die < 4 →
    (s.die h.die).inService = true → s.repl = none → (s.die h.die).locked = true →
    ∀ i ∈ [Instr.bootload h img, .fwstage h target pa], ∃ t, exec i s = .next t ∧ t.dies = s.dies ∧
      t.outbox = s.outbox ++ [.ack h false 8 []]) ∧
  ∀ (s : State) (h : Mht), s.powered = true → (s.die (hostDie h.port)).inService = true → s.streamLead h = 0 →
    s.hostWaits h = false →
    h.die < 4 → s.dies.length = 4 → (s.die h.die).inService = true → s.booted h.die = true → s.repl = none →
    let acks := fun (t : State) (ok : Bool) (code : Nat) (data : List Byte) => t.outbox = s.outbox ++ [.ack h ok code data]
    (∀ pa bs, hostRange pa bs.length = true → s.opens h.die pa bs.length = false →
      exec (.mhtMemrd h pa bs.length) s =
        .next { s with deferred := s.deferred ++ [.mhtMemrd h pa bs.length] } ∧
      exec (.mhtMemwr h pa bs) s = .next { s with deferred := s.deferred ++ [.mhtMemwr h pa bs] }) ∧
    let still := ∀ c ∈ s.ctxs, c.status = .saved → c.events = 0
    (∀ pa n, hostRange pa n = true → s.opens h.die pa n = true → s.badGranule pa n = none → still →
      ∃ t, exec (.mhtMemrd h pa n) s = .next t ∧ acks t true 0 (s.hbm.read pa n) ∧ t.hbm = s.hbm) ∧
    (∀ pa bs, hostRange pa bs.length = true → s.opens h.die pa bs.length = true → s.writeRefused pa bs.length = false →
      still → ∃ t, exec (.mhtMemwr h pa bs) s = .next t ∧ acks t true 0 [] ∧
        ∀ x, t.hbm.byte x = if pa ≤ x ∧ x < pa + bs.length then bs.getD (x - pa) 0 else s.hbm.byte x) ∧
    (∀ img fw, (s.die h.die).locked = false → s.verify img = .ok fw → 1 ≤ imgTarget img → imgTarget img ≤ 5 →
      (s.die h.die).fw.length = 5 →
      let stage := stageOf (imgTarget img)
      let stores := fun (w : Fw) => ∃ t, exec (.bootload h img) s = .next t ∧ acks t true 0 [] ∧
        (t.die h.die).fw.getD (imgTarget img - 1) none = some w
      (stage = (s.die h.die).stage → stores { fw with beating := false }) ∧
      (stage < (s.die h.die).stage → stores { fw with beating := true }) ∧
      ((s.die h.die).stage < stage → ∃ t, exec (.bootload h img) s = .next t ∧ acks t false 5 [] ∧ (t.die h.die).err = 5 ∧
        (t.die h.die).fw = (s.die h.die).fw)) ∧
    (∀ img code, (s.die h.die).locked = false → s.verify img = .error code →
      ∃ t, exec (.bootload h img) s = .next t ∧ acks t false code [] ∧ (t.die h.die).err = code ∧
        (t.die h.die).refused = min 255 ((s.die h.die).refused + 1) ∧ (t.die h.die).fw = (s.die h.die).fw) ∧
    (∀ target pa, (s.die h.die).locked = false → ((s.die h.die).fw.getD (target - 1) none).isSome = true → 1 ≤ target →
      target ≤ 5 → stagingOk pa = true → ∃ t, exec (.fwstage h target pa) s = .next t ∧ acks t true 0 [] ∧
        t.repl = some ⟨h.die, target, pa, 1, none, none⟩ ∧ t.attempts = s.attempts + 1) ∧
    (∀ nonce, ∃ t data, exec (.attest h nonce) s = .next t ∧ acks t true 0 data ∧ data.take 32 = beBytes 32 nonce.toNat ∧
      s.persist.certChain <:+ data) ∧
    (∀ l x c q seq, s.launch q seq = some l → l.phase = .placed x.id → s.tracts = [x] → x.state = .running → s.ctxs = [c] →
      c.key.tract = x.id → c.status = .run → c.det = false → c.evmask.getLsbD 2 = true →
      ∃ t d, exec (.evpost h q seq) s = .next t ∧ acks t true 0 [] ∧ t.ctxs = [d] ∧ d.events.getLsbD 2 = true) ∧
    (∀ c r v, s.ctxs = [c] → c.sys = some r → r.asked = true → c.status = .waiting →
      ∃ t d, exec (.nreply h c.key v) s = .next t ∧ acks t true 0 [] ∧ t.ctxs = [d] ∧ d.status = .run ∧ d.sys = none ∧
        d.rs 62 = v ∧ ∀ e ∈ d.inflight, e.dst ≠ some (.s 62)) ∧
    ∃ t, exec (.steppe h) s = .next t ∧ acks t true 0 [] ∧ t.steppeDue = true

/-! ### Events: queues, launches and tracts -/

/-- R33, R35, R42, R263 to R266, R270, R273, R277 and R349: a queue is enabled with HEAD and DONE at TAIL as it stood at the write
of EN, or disabled; a doorbell reads TAIL; a launch is taken and HEAD advances; its group is matched, once for a group rank; DONE
advances in launch order, behind the record and before the tract's slots come free; and dies are reserved, or their launch waits
its turn (assumption 103). A launch that has ended takes only its own place in its group with it, and one that the end of a peer
refuses its reservation. The model's own: a poisoned TAIL reads as its plain bytes (assumption 78, DESIGN CHOICE), and GROUP_MATCH
names the members of other devices (assumption 52, DESIGN CHOICE). A distributor does so while its ways to the descriptor, the
block, the image and the record carry requests (R366, R368). -/
def Obligations.QueueEvents : Prop :=
  ∀ (s : State) (q : Nat), s.serves q = true → s.queueOpens q = true →
    (∀ ev, s.ctlEvent q = some ev → ev.en = true → queueOk ev.ctl ev.ring ev.rest = true →
      ∃ t w, exec (.queueEnable q) s = .next t ∧ w ∈ t.queues ∧ w.q = q ∧ w.en = true ∧ w.qerr = false ∧
        w.head = ev.tail ∧ w.done = ev.tail ∧ w.tail = ev.tail ∧ w.ring = ev.ring ∧
        w.prio = bitsOf ev.ctl 2 3 ∧ w.asid = bitsOf ev.ctl 16 16) ∧
    (∀ ev, s.ctlEvent q = some ev → ev.en = false →
      ∃ t, exec (.queueDisable q) s = .next t ∧ ∀ w ∈ t.queues, w.q = q → w.en = false) ∧
    (∀ w, q ∈ s.bells → s.ctlEvent q = none → s.queues = [w] → w.q = q → w.en = true →
      (s.hbmNum (s.qpa q + 16) 8 + 2 ^ 64 - w.head) % 2 ^ 64 ≤ 2 ^ w.logsz →
      ∃ t, exec (.doorbell q) s = .next t ∧ t.queues = [{ w with tail := s.hbmNum (s.qpa q + 16) 8 }] ∧
        t.bells = s.bells.erase q) ∧
    (∀ w blk, s.queues = [w] → w.q = q → w.en = true → w.head ≠ w.tail → s.closing q = false →
      s.takeOpens w = true → s.vread w.asid (w.ring + 256 * (w.head % 2 ^ w.logsz)) 256 2 = some blk →
      ∃ t l, exec (.launchTake q) s = .next t ∧ t.queues = [{ w with head := (w.head + 1) % 2 ^ 64 }] ∧
        t.launches = s.launches ++ [l] ∧ l.q = q ∧ l.seq = w.head ∧ l.blk = blk ∧
        (∀ img, s.checkLaunch (takenLaunch w blk) = .ok img → l.img = img ∧
          l.phase = if (takenLaunch w blk).gid = 0 then .matched else .taken) ∧
        ∀ st, s.checkLaunch (takenLaunch w blk) = .error st → l.phase = .refused st false) ∧
    (∀ l, s.launches = [l] → l.q = q → l.phase = .taken →
      (s.devSet = true → s.joined l.gid = false → ∃ t, exec (.groupMatch q l.seq []) s = .next t ∧
        t.launches = [{ l with phase := .matched }] ∧ t.groups = s.groups ++ [⟨l.gid, l.grank, q, l.seq, l.gen⟩]) ∧
      (s.joined l.gid = true → ∃ t, exec (.groupMatch q l.seq []) s = .next t ∧
        t.launches = [{ l with phase := .refused 0x106 false }] ∧ t.groups = s.groups) ∧
      ∀ m, (m.g ≠ l.g ∨ m.t ≠ l.t ∨ m.grank = l.grank) → ∃ t, exec (.groupMatch q l.seq [m]) s = .next t ∧
        t.launches = [{ l with phase := .refused 0x106 false }]) ∧
    (∀ w l b, s.queues = [w] → w.q = q → s.launches = [l] → l.q = q → l.gen = w.gen → l.seq = w.done → l.phase = .over b →
      ∃ t, exec (.doneAdvance q) s = .next t ∧ t.queues = [{ w with done := (w.done + 1) % 2 ^ 64 }] ∧ t.launches = [] ∧
        t.hbmNum (s.qpa q + 32) 8 = (w.done + 1) % 2 ^ 64 ∧
        ∀ g ∈ s.groups, (g.q ≠ q ∨ g.seq ≠ l.seq ∨ g.gen ≠ l.gen) → g ∈ t.groups) ∧
    (∀ w l x, s.queues = [w] → w.q = q → s.launches = [l] → l.q = q → l.gen = w.gen → l.seq = w.done →
      l.phase = .written x.id → s.tracts = [x] → (∀ c ∈ s.ctxs, c.key.tract = x.id) → s.reqs = [] → s.transit = [] →
      ∃ t, exec (.doneAdvance q) s = .next t ∧ t.queues = [{ w with done := (w.done + 1) % 2 ^ 64 }] ∧ t.launches = [] ∧
        t.tracts = [] ∧ t.ctxs = [] ∧ t.saddle.pending = true ∧ t.hbmNum (s.qpa q + 32) 8 = (w.done + 1) % 2 ^ 64) ∧
    (∀ l st was, s.launches = [l] → l.q = q → l.phase = .refused st was → s.recordOpens l = true →
      ∃ t, exec (.doneAdvance q) s = .next t ∧ t.launches = [{ l with phase := .over was }] ∧ t.queues = s.queues) ∧
    (∀ l (gid : Word32), s.launches = [l] → l.q = q → l.phase = .matched → gid ≠ 0 → l.gid = gid.toNat → 2 ≤ l.g →
      s.queueHeld l.q = false → ∃ t, exec (.peerEndNews gid) s = .next t ∧
        t.launches = [{ l with phase := .refused 3 false }] ∧ ∀ r ∈ t.reservations, ¬ (r.q = l.q ∧ r.seq = l.seq)) ∧
    ∀ l dies, s.launches = [l] → l.q = q → s.lacksSites l = true → s.distributes s.leaderDie = true →
      dies.length = l.diesNeeded → dies.Nodup →
      ((∀ d ∈ dies, s.reservable l d = true) → ∃ t, exec (.reservation q l.seq dies) s = .next t ∧
        t.reservations = s.reservations ++ [⟨q, l.seq, dies⟩] ∧ t.launches = [l]) ∧
      ((∀ d ∈ dies, s.suits l d = true) → (∃ d ∈ dies, s.reservable l d = false) →
        ∃ t, exec (.reservation q l.seq dies) s = .next t ∧ t.reservations = s.reservations ∧
          t.launches = [{ l with waited := true }])

/-- R34, R36 to R38, R148, R186, R274, R364 and R383: a launch is placed on the sites its distributor takes, with one context a
rank, in ALLOC; a reissue is placed anew; a context is loaded and GATED; and a tract whose ranks are all GATED starts, with
CLOCK and REPLAYS at 0. One that is to leave for power passes RUN on its way out, once it is its turn (assumption 79 of the
model, DESIGN CHOICE). -/
def Obligations.PlacementEvents : Prop :=
  (∀ (s : State) (l : Launch) (sites : List Nat), s.waiter l.q l.seq sites = some l → l.phase = .matched →
    ∃ t, exec (.placeLaunch l.q l.seq sites) s = .next t ∧ sites.length = l.t ∧
      t.ctxs = s.ctxs ++ (sites.zipIdx.map fun p => l.context s.nextTract p.2 p.1) ∧
      (∀ p ∈ sites.zipIdx, (l.context s.nextTract p.2 p.1).status = .alloc ∧ (l.context s.nextTract p.2 p.1).site = p.1 ∧
        (l.context s.nextTract p.2 p.1).key = ⟨s.nextTract, p.2⟩) ∧
      t.nextTract = s.nextTract + 1 ∧ t.saddle.pending = true ∧
      ∃ x, t.tracts = s.tracts ++ [x] ∧ x.id = s.nextTract ∧ x.sites = sites ∧ x.state = .starting) ∧
  (∀ (s : State) (l : Launch) (n : Nat) (img : Wim) (sites : List Nat), s.waiter l.q l.seq sites = some l →
    l.phase = .reissue n → (s.server l.q).all (s.imageOpens · l) = true → s.imageFor l = some img → s.launches = [l] →
    ∃ t x, exec (.reissue l.q l.seq sites) s = .next t ∧ t.tracts = s.tracts ++ [x] ∧ x.sites = sites ∧
      t.launches.map Launch.reissues = [l.reissues + 1] ∧ t.rr = s.rr) ∧
  (∀ (s : State) (c : Ctx) (l : Launch), s.ctxs = [c] → s.launchOf c.key.tract = some l → c.status = .alloc →
    ∃ t, exec (.allocDone c.key) s = .next t ∧
      t.ctxs = [{ c with
        status := .gated
        istore := memoryOf [(0, l.img.code)]
        lm := if l.swouts = 0 then memoryOf l.img.data else c.lm }]) ∧
  ∀ (s : State) (c : Ctx) (x : Tract) (l : Launch), s.ctxs = [c] → s.tracts = [x] → c.key.tract = x.id →
    s.launchOf x.id = some l → l.g = 1 → x.state = .starting → x.cause = none → x.renew = false → x.next = none →
    (c.status = .gated ∨ c.status = .exited) →
    (s.passesOn x = false → ∃ t, exec (.tractStart x.id false) s = .next t ∧
      t.ctxs = [if c.status = .exited then { c with yielded := false }
        else { c with
          status := if c.sys.isSome = true then .waiting else .run
          yielded := false, clock := 0, replays := 0 }] ∧
      (∀ y ∈ t.sites, ∀ k ∈ y.last, k.tract ≠ x.id) ∧
      t.tracts = [{ x with state := .running, quantumOver := false }]) ∧
    (s.passesOn x = true → s.leavesNext x = false → exec (.tractStart x.id false) s = .next s) ∧
    ∀ s1 imgs, s.passesOn x = true → s.leavesNext x = true →
      (s.startRanks x.id).roomForAll (x.q / 32768) false ((s.startRanks x.id).members x.id) = some (s1, imgs) →
      ∃ t, exec (.tractStart x.id false) s = .next t ∧
        t.tracts = [{ x with state := .saving, images := imgs, quantumOver := false }]

/-- R42, R46, R47, R278, R292, R293, R316, R347 to R349, R354, R355 and R393: the end of a quantum, switching out, the saving
of a tract, switching in, and the end, draining and completion of a tract, which stays on its sites until DONE has advanced;
one that is to end does not complete, and a SAVED one that a fault or a peer's end ends leaves teardown images; a cause found
before the end of a peer stands. The model's own: site 256 of a
SAVED context (assumption 33), room set aside at the switch-out (48), what the end of a tract drops and what it waits for (50),
the slices of a completed MMAG step that stay (80), and that what a held LATOM waits for goes on (97). -/
def Obligations.TractEvents : Prop :=
  ∀ (s : State) (c : Ctx) (x : Tract) (l : Launch), s.ctxs = [c] → s.tracts = [x] → c.key.tract = x.id → s.launches = [l] →
    l.phase = .placed x.id →
    (x.switchable = true → s.distUp x = true → ∃ t, exec (.quantumEnd x.id) s = .next t ∧
      t.ctxs = [{ c with yielded := false }] ∧ t.tracts = [{ x with quantumOver := s.wanted x }]) ∧
    (∀ e, s.endCause x = some e → exec (.switchOut x.id) s = .next s ∧ exec (.tractSaved x.id) s = .next s ∧
      (x.cause = none → exec (.launchComplete x.id) s = .next s)) ∧
    (∀ s1 imgs, x.switchable = true → s.mustLeave x = true → s.distUp x = true → s.endCause x = none → c.inflight = [] →
      s.roomForAll (x.q / 32768) false [c] = some (s1, imgs) → ∃ t d, exec (.switchOut x.id) s = .next t ∧
        t.tracts = [{ x with state := .saving, images := imgs, quantumOver := false }] ∧ t.ctxs = [d] ∧ d.pc = c.pc ∧
        c.SameRegs d ∧ c.SameStores d ∧ (c.latomRuns = false → ∀ m ∈ d.mq, m.running = false ∧ m.active = false) ∧
        ∀ y ∈ c.mmagOut, y.step < c.mmagStep → y ∈ d.mmagOut) ∧
    (s.savable x = true → s.distUp x = true → ∃ t d, exec (.tractSaved x.id) s = .next t ∧ t.ctxs = [d] ∧
      d.status = .saved ∧ d.site = 256 ∧
      t.tracts = [{ x with
        state := .saved, sites := [], left := s.orders, next := none, grant := s.lastGrant x }] ∧
      t.launches = [{ l with swouts := l.swouts + 1 }] ∧ t.saddle.pending = true) ∧
    (∀ sites pa, s.savedTract l = some x → s.mayPlace l sites = true → s.sitesOk l sites = true → s.savedFails x = false →
      s.sought x.id = false → s.regionOpens x sites = true → x.images = [(c.key.rank, pa)] →
      (s.imagesOk x = true → ∃ t, exec (.switchIn x.id sites) s = .next t ∧
        t.tracts = [{ x with state := .starting, sites := sites, images := [], renew := true, order := s.orders }] ∧
        t.ctxs = [(s.restore c pa (sites.getD c.key.rank 256)).event 1] ∧ t.saddle.pending = true) ∧
      (s.imagesOk x = false → ∃ t, exec (.switchIn x.id sites) s = .next t ∧ t.ctxs = [c] ∧
        t.tracts = [{ x with cause := some ⟨6, 0, 0xFFFF, 0⟩ }])) ∧
    (∀ e, s.endCause x = some e → s.endWaits x = true → ∃ t, exec (.tractEnd x.id) s = .next t ∧
      t.tracts = [{ x with cause := some e }] ∧ t.ctxs = [c] ∧ t.launches = s.launches) ∧
    (∀ e, x.state = .running → s.endCause x = some e → s.endWaits x = false → ∃ t d, exec (.tractEnd x.id) s = .next t ∧
      t.tracts = [{ x with
        state := .ending, cause := some e, images := []
        next := if x.counted = true ∧ x.falls = true then x.next else none
        grant := if x.counted = true ∧ x.falls = true then x.grant else s.lastGrant x
        first := x.first && !s.nextHeld x }] ∧
      t.ctxs = [d] ∧ d.mq = [] ∧ d.rels = [] ∧ d.latom = none ∧ d.inflight = [] ∧ c.SameStores d ∧
      (∀ o ∈ d.ops, o ∈ c.ops ∧ o.started = true) ∧ t.launches = s.launches) ∧
    (∀ e pa, x.state = .saved → s.endCause x = some e → s.endWaits x = false → x.images = [(c.key.rank, pa)] →
      ∃ t, exec (.tractEnd x.id) s = .next t ∧ t.ctxs = [] ∧ t.launches = s.launches ∧
        (∀ y ∈ t.tracts, y.state = .ending ∧ y.cause = some e ∧ y.images = []) ∧
        (3 < e.status → t.hbm = (s.dropImages x).hbm) ∧
        ∀ u at_, e.status ≤ 3 →
          (s.dropImages x).roomFor (x.q / 32768) (s.restore c pa c.site) true = some (u, at_) →
          t.hbm = (u.writeImage (s.restore c pa c.site) at_ true).hbm) ∧
    (x.state = .ending → ∃ t, exec (.tdrainExpiry x.id) s = .next t ∧ t.tracts = [{ x with drained := true }] ∧
      t.ctxs = [c.drainOver] ∧ ∀ r ∈ t.reqs, r ∈ s.reqs) ∧
    (∀ gid, gid ≠ 0 → l.gid = BitVec.toNat (gid : Word32) → 2 ≤ l.g → s.queueHeld l.q = true →
      exec (.peerEndNews gid) s = .next { s with deferred := s.deferred ++ [.peerEndNews gid] }) ∧
    (∀ gid, gid ≠ 0 → l.gid = BitVec.toNat (gid : Word32) → 2 ≤ l.g → s.queueHeld l.q = false → x.state = .running →
      ∃ t, exec (.peerEndNews gid) s = .next t ∧
        t.tracts = [{ x with cause := some ((s.endCause x).getD ⟨3, 0, 0xFFFF, 0⟩) }]) ∧
    ∀ pa, s.serves l.q = true → s.recordOpens l = true → x.state = .running → x.cause = none → s.endCause x = none → c.done = true →
      s.reqs = [] → s.transit = [] → s.clpOut = [] → localVa l.crec = true →
      s.walkAll l.asid l.crec.toNat ⟨false, true, false, false⟩ = some pa →
      s.reachesAll pa 64 = true → ∃ t, exec (.launchComplete x.id) s = .next t ∧ t.ctxs = [c] ∧
        t.tracts = [{ x with state := .complete }] ∧
        t.launches = [{ l with phase := .written x.id, grant := s.grantWord x l }] ∧
        ∀ j, t.hbm.byte j = if pa ≤ j ∧ j < pa + 64
          then (recordBytes l ⟨0, 0, 0xFFFF, 0⟩ (s.grantWord x l)).getD (j - pa) 0 else s.hbm.byte j

/-! ### Events: grants, budgets, power and margins -/

/-- R165, R291 to R295, R301, R316, R382, R383 and R391: an arbitration sets each tract's next steps, where no tract leaves for
power, and keeps those of a tract that keeps its grant in a hand-over; a tile takes its grant and sees EV.RAT, unless the tract
keeps its own, and once its site's regulator has settled for it; the clocks of a site rise behind its voltage, which falls behind
them; a byte budget begins anew, and BF follows the measured power against a quarter of the cap in force (assumption 110 of the
model). An arbitration that falls due while grants are being applied waits for them (assumption 109; both DESIGN CHOICE), and
while a pre-emptible bulk tract runs or is to run, or leaves, no step is lowered below its floor (assumption 79). -/
def Obligations.GrantAndBudgetEvents : Prop :=
  ∀ s : State,
    (s.saddle.pending = true → s.arbiterUp = true → (∀ x ∈ s.tracts, s.frozen x = false) →
      (∃ x ∈ s.tracts, x.next.isSome = true) → exec .arbitrate s = .next s) ∧
    (∀ x, s.saddle.pending = true → s.arbiterUp = true → s.tracts = [x] → s.frozen x = true → s.floorsFit = true →
      (s.arbitrationWaits s.arbitration = true → exec .arbitrate s = .next s) ∧
      (s.arbitrationWaits s.arbitration = false → ∃ t, exec .arbitrate s = .next t ∧ t.tracts = [x] ∧ t.ctxs = s.ctxs ∧
        t.saddle.pending = s.keepsGrants)) ∧
    (s.saddle.pending = true → s.arbiterUp = true → (∀ x ∈ s.tracts, x.next = none ∧ s.frozen x = false) →
      s.floorsFit = true →
      ∃ t, exec .arbitrate s = .next t ∧ t.saddle.pending = false ∧ t.saddle.uflr = false ∧ t.ctxs = s.ctxs ∧
        t.tracts.map Tract.id = s.tracts.map Tract.id ∧
        ∀ x, s.tracts = [x] → x.counted = true → ∃ lam, t.tracts = [x.arbitrated (s.stepsAt x lam, lam, 32)]) ∧
    (∀ i, i < s.sites.length → let t := s.regulate i
      t = { s with sites := t.sites } ∧
      ((t.site i).clock ≠ (s.site i).clock →
        (t.site i).clock = s.effective i ∧ (t.site i).volt = (s.site i).volt ∧ covers (s.site i).volt (s.effective i) = true) ∧
      (covers (t.site i).volt (s.site i).volt = false → (s.site i).clock = s.effective i)) ∧
    (∀ c x g, s.ctxs = [c] → s.tracts = [x] → c.key.tract = x.id → x.next = some g → s.frozen x = false →
      c.site < s.sites.length → (s.site c.site).tripped = false → (s.site c.site).drain = false → c.status ≠ .saved →
      (s.site c.site).volt.length = 4 → covers (s.site c.site).volt g.steps = false →
      ∃ t, exec (.grantTakeEffect c.key) s = .next t ∧ t.ctxs = [c] ∧ t.tracts = [x] ∧
        (t.site c.site).clock = (s.site c.site).clock ∧ covers (t.site c.site).volt g.steps = true) ∧
    (∀ c x g, s.ctxs = [c] → s.tracts = [x] → c.key.tract = x.id → x.next = some g → s.frozen x = false →
      covers (s.site c.site).volt g.steps = true →
      ∃ t d, exec (.grantTakeEffect c.key) s = .next t ∧
        t.tracts = [{ x with grant := g, next := none, first := false, renew := false }] ∧ t.ctxs = [d] ∧ d.grant = g ∧
        (x.first = false → c.det = false → c.evmask.getLsbD 0 = true → d.events.getLsbD 0 = true) ∧
        ∀ n, n < 16 → n ≠ 0 → d.events.getLsbD n = c.events.getLsbD n) ∧
    (∀ c x, s.ctxs = [c] → s.tracts = [x] → c.key.tract = x.id → s.frozen x = true →
      exec (.grantTakeEffect c.key) s = .next s) ∧
    (s.saddle.pending = true → s.floorsFit = false → (s.powerVictims ≠ [] ∨ s.leaving ≠ []) → exec .arbitrate s = .next s) ∧
    (s.saddle.pending = true → s.arbiterUp = true → (∀ x ∈ s.tracts, x.next = none ∧ s.frozen x = false) →
      s.powerVictims = [] → s.leaving = [] →
      (∃ x ∈ s.tracts, (x.state = .running ∨ x.state = .starting) ∧ x.express = false ∧ x.preempt = true) →
      ∃ t, exec .arbitrate s = .next t ∧ t.saddle.uflr = false ∧ t.tracts.map Tract.id = s.tracts.map Tract.id ∧
        ∀ x ∈ t.tracts, x.counted = true → x.mu = 32) ∧
    (∀ ch, ch < s.chans.length → ∃ t, exec (.budgetWindow (.channel ch)) s = .next t ∧ (t.chan ch).arb.spent = [] ∧
      (t.chan ch).arb.exprRun = (s.chan ch).arb.exprRun ∧ ∀ k, k ≠ ch → t.chan k = s.chan k) ∧
    (s.edges.length = 4 → ∀ d, d < 4 →
      (∃ t, exec (.budgetWindow (.link d true)) s = .next t ∧ (t.edge d).arbA.spent = [] ∧
        (t.edge d).arbB = (s.edge d).arbB) ∧
      ∃ t, exec (.budgetWindow (.link d false)) s = .next t ∧ (t.edge ((d + 3) % 4)).arbB.spent = [] ∧
        (t.edge ((d + 3) % 4)).arbA = (s.edge ((d + 3) % 4)).arbA) ∧
    (∀ d mw, s.agentRuns d = false → exec (.budgetAdjust d mw) s = .next s) ∧
    ∀ d mw, d < s.dies.length → s.repl = none → s.agentRuns d = true →
      ∃ t, exec (.budgetAdjust d mw) s = .next t ∧ (t.die d).bf =
        if (s.die d).ocl = true then (s.die d).bf
        else if s.saddle.cap * 1000 < 4 * mw then max 4 ((s.die d).bf - 8)
        else if 400 * mw < 95 * (s.saddle.cap * 1000) then min 64 ((s.die d).bf + 1)
        else (s.die d).bf

/-- R288, R289 and R361: where the floors fit the cap and no tract keeps its grant in a hand-over, the levels of an arbitration
lie between 1 and 32 and the model at the steps they give fits the cap. -/
def Obligations.ArbitrationFitsTheCap : Prop :=
  ∀ s : State, s.floorsFit = true → (∀ t ∈ s.tracts, s.frozen t = false) → ∃ level : Tract → Nat,
    s.arbitration = (s.tracts.filter Tract.counted).map (fun t => (t.id, s.stepsAt t (level t), level t, 32)) ∧
    modelOf s.tracts (fun t => s.stepsAt t (level t)) ≤ s.saddle.capMw ∧ ∀ t, 1 ≤ level t ∧ level t ≤ 32

/-- R22, R296, R297, R380, R381, R384 and R385: coolant reports, once Saddle reads the sideband, the over-current clamp and its
cut of the cap, and thermal trips. -/
def Obligations.PowerProtectionEvents : Prop :=
  ∀ s : State,
    (∀ r : Option Coolant, s.readsCoolant = false → exec (.coolantReport r) s = .next s) ∧
    (∀ r : Option Coolant, s.readsCoolant = true → s.arbiterUp = true → (∀ x, r = some x → s.saddle.implausible x = true) →
      ∃ t, exec (.coolantReport r) s = .next t ∧ t.saddle.bad = s.saddle.bad + 1 ∧ t.saddle.good = 0 ∧
        (3 ≤ s.saddle.bad + 1 → t.saddle.fallback = true ∧ t.saddle.cap = 1250) ∧
        (s.saddle.bad + 1 < 3 → t.saddle.fallback = s.saddle.fallback ∧ t.saddle.cap = s.saddle.cap)) ∧
    (∀ x : Coolant, s.readsCoolant = true → s.arbiterUp = true → s.saddle.implausible x = false →
      s.saddle.fallback = false → s.saddle.beyond = false →
      ∃ t, exec (.coolantReport (some x)) s = .next t ∧ t.saddle.bad = 0 ∧ t.saddle.inlet = x.inlet ∧
        (s.saddle.outside x = true → t.saddle.cap = 1250 ∧ t.saddle.beyond = true) ∧
        (s.saddle.outside x = false → s.saddle.cooling = .coldPlate →
          let cap := (3200 - 40 * max 0 (-(-x.inlet / 16) - 40)).toNat
          t.saddle.cap = if s.saddle.cap + 10 ≤ cap ∨ cap + 10 ≤ s.saddle.cap then cap else s.saddle.cap)) ∧
    (∀ d mw, d < s.dies.length →
      (s.saddle.cap * 1000 < 3 * mw → (s.die d).ocHits = 1 → ∃ t, exec (.overcurrentCheck d mw) s = .next t ∧
        (t.die d).ocl = true ∧ (t.die d).bf = 4 ∧ (t.die d).ocHits = 2) ∧
      (s.saddle.cap * 1000 < 3 * mw → (s.die d).ocHits = 0 → ∃ t, exec (.overcurrentCheck d mw) s = .next t ∧
        (t.die d).ocl = (s.die d).ocl ∧ (t.die d).bf = (s.die d).bf ∧ (t.die d).ocHits = 1) ∧
      (3 * mw ≤ s.saddle.cap * 1000 → ∃ t, exec (.overcurrentCheck d mw) s = .next t ∧ (t.die d).ocHits = 0) ∧
      ((s.die d).ocHits = 0 → ∃ t, exec (.oclRelease d) s = .next t ∧ (t.die d).ocl = false)) ∧
    (∀ x ∈ s.dies, x.ocl = true → x.bf = 4 → 2 ≤ x.ocHits → s.saddle.ocCut = false →
      ∃ t, exec .overcurrentCapCut s = .next t ∧ t.saddle.ocCut = true ∧ t.saddle.capMw = s.saddle.cap * 900 ∧
        t.saddle.pending = true) ∧
    (s.saddle.ocCut = true → (∀ x ∈ s.dies, x.ocHits = 0) →
      ∃ t, exec .overcurrentCapRestore s = .next t ∧ t.saddle.ocCut = false ∧ t.saddle.capMw = s.saddle.cap * 1000) ∧
    ∀ i (deg : BitVec 16), s.sites.length = 256 → s.dies.length = 4 → i < 256 →
      (115 * 16 ≤ deg.toInt → (s.site i).tripped = false → ∃ t, exec (.thermalTrip i deg) s = .next t ∧
        (t.site i).tripped = true ∧ (t.site i).clock = [0, 0, 0, 0] ∧
        (t.die (i / 64)).trips = ((s.die (i / 64)).trips + 1) % 65536) ∧
      (deg.toInt < 105 * 16 → ∃ t, exec (.tripRelease i deg) s = .next t ∧ (t.site i).tripped = false)

/-- R45, R186, R281, R299, R300, R302, R303, R310, R359 and R360: a window of Glen moves the point of its step by the replays
that its counter holds and those given, or lowers a ceiling or asks for a fence where the point cannot rise, and then the
ageing offset moves by a drift that the spec does not give (assumption 40), which may do the same; in a hand-over a window is
discarded; a generation goes to the bank not last used, and to no other byte of the flash; a replay is counted by the contexts
of the site's last issue that have not left it and by Glen, and halves the rate; and a window of express issue begins anew. The
model's own (DESIGN CHOICE): a replay counts at its squash (assumption 35), the supply rises at every four squashes (98), a
raise outlasts a window that is discarded (101), the Glen of the leader's die writes a generation (124), and a point may rise
above 0.85 V under a negative offset (125). -/
def Obligations.MarginEvents : Prop :=
  (∀ s : State, s.repl = none →
    (∀ i dom step n, s.glenRuns (i / 64) = false → exec (.glenWindow i dom step n) s = .next s) ∧
    (∀ i dom step n, s.glenRuns (i / 64) = true → s.sites.length = 256 → i < 256 → dom < 4 → step < 32 →
      dom < (s.site i).pts.length →
      step < ((s.site i).pts.getD dom []).length →
      let p := fun (x : State) => ((x.site i).pts.getD dom []).getD step 0
      let top := ((p s : Int) + 4 + (s.site i).age.getD dom 0)
      let total := ((s.site i).replays.getD dom []).getD step 0 + n
      ∃ u, exec (.glenWindow i dom step n) s =
          .next { u.drift i dom (Config.ageDrift s.fresh) with fresh := s.fresh + 1 } ∧
        (u.site i).raised = 0 ∧ ((u.site i).replays.getD dom []).getD step 0 = 0 ∧ (u.site i).age = (s.site i).age ∧
        (16 < total → top ≤ 320 → p u = p s + 4) ∧
        (16 < total → 320 < top → p u = 320 ∧ (u.site i).esc = min 255 ((s.site i).esc + 1) ∧
          (step < 9 → (u.site i).wantFence = true) ∧
          (9 ≤ step → (u.site i).wantFence = (s.site i).wantFence ∧
            (dom < (s.site i).ceil.length → (u.site i).ceil.getD dom 0 = min ((s.site i).ceil.getD dom 0) (step - 1)))) ∧
        (total ≤ 16 → 4 < total → p u = p s) ∧
        (total ≤ 4 → 7 ≤ (((s.site i).lowRuns.getD dom []).getD step 0) → p u = p s - 1) ∧
        (total ≤ 4 → (((s.site i).lowRuns.getD dom []).getD step 0) < 7 → p u = p s)) ∧
    (s.writesSteppe = true → ∃ (t : State) (b : Steppe), exec .steppeWrite s = .next t ∧ t.steppeDue = false ∧
      t.persist.lastA = (!s.persist.lastA) ∧ b.gen = max (s.persist.genOf true) (s.persist.genOf false) + 1 ∧
      b.fenced = s.sites.map Site.fenced ∧ b.age = s.sites.map Site.age ∧
      ∀ x, t.persist.flash.byte x =
        if bankAt (!s.persist.lastA) ≤ x ∧ x < bankAt (!s.persist.lastA) + 2 ^ 20
          then b.bank.getD (x - bankAt (!s.persist.lastA)) 0 else s.persist.flash.byte x) ∧
    (∀ i, i < s.sites.length → (s.site i).last ≠ [] → ∃ t, exec (.timingReplay i) s = .next t ∧
      (t.site i).halfRate = 64 ∧ (t.site i).squash = (s.site i).squash + 1 ∧
      (t.site i).raised = (s.site i).raised + (if ((s.site i).squash + 1) % 4 = 0 then 1 else 0) ∧
      t.ctxs = s.ctxs.map fun c =>
        if c.key ∈ (s.site i).last ∧ c.stayedOn i = true then { c with replays := c.replays + 1 } else c) ∧
    ∃ t, exec .expcapWindow s = .next t ∧ t.ctxs = s.ctxs ∧ ∀ i, i < s.sites.length → 65536 ≤ (s.site i).vcount →
      (t.site i).vcount = 0 ∧ (t.site i).exprCount = 0 ∧ (t.site i).bulkTurn = true) ∧
  (∀ (u : State) (i dom : Nat) (b : Int), i < u.sites.length →
    let t := u.drift i dom b
    (t.site i).age = modAt (u.site i).age dom (fun a => max (-128) (min 127 (a + b))) ∧
    (({ u.site i with age := (t.site i).age } : Site).overTop dom = none →
      t.site i = { u.site i with age := (t.site i).age }) ∧
    ∀ k, ({ u.site i with age := (t.site i).age } : Site).overTop dom = some k →
      (t.site i).esc = min 255 ((u.site i).esc + 1) ∧ (t.site i).pts = modTable (u.site i).pts dom k (fun _ => 320)) ∧
  ∀ (s : State) (i dom step n : Nat), s.handingOver (i / 64) 2 = true → dom < 4 → step < 32 → i < s.sites.length →
    ∃ t, exec (.glenWindow i dom step n) s = .next t ∧ (t.site i).pts = (s.site i).pts ∧ (t.site i).age = (s.site i).age ∧
      (t.site i).lowRuns = (s.site i).lowRuns ∧ (t.site i).raised = (s.site i).raised

/-! ### Events: failures and firmware -/

/-- R310, R316, R343, R362, R363, R366 to R371, R375 and R376: fencing, uncorrectable errors, die links, over which nothing passes
while they are not up, and of which one that is due retrains, lost dies, fabric ports, which come and go from stage FABRIC on, and
lost channels. That a lost die empties every reservation is assumption 53 of the model (DEDUCED), and that a port which never came
up is not counted as going down assumption 145 (DESIGN CHOICE). -/
def Obligations.FailureEvents : Prop :=
  ∀ s : State, s.sites.length = 256 → s.dies.length = 4 → s.edges.length = 4 → s.repl = none →
    (∀ i, i < 256 → s.fenceDue i = true → ∃ t, exec (.fenceSite i) s = .next t ∧ (t.site i).drain = true ∧
      (t.site i).wantFence = false ∧ t.ctxs = s.ctxs) ∧
    (∀ i, s.emptyDrain = some i → (s.die (i / 64)).inService = true ∧ (s.site i).drain = true) ∧
    (∀ i, s.emptyDrain = some i → ∃ t, exec .fenceComplete s = .next t ∧ (t.site i).fenced = true ∧
      (t.site i).drain = false ∧ (t.die (i / 64)).sticky.getLsbD 0 = true ∧ t.saddle.pending = true ∧ t.steppeDue = true) ∧
    (∀ pa, paChan pa < s.chans.length → ∃ t, exec (.uncorrectableError (.hbm pa)) s = .next t ∧
      2 * (pa / 64) ∈ t.hbmPoison ∧ 2 * (pa / 64) + 1 ∈ t.hbmPoison ∧
      (t.chan (paChan pa)).ue = ((s.chan (paChan pa)).ue + 1) % 65536 ∧ t.hbm = s.hbm) ∧
    (∀ c off, s.ctxs = [c] → c.status ≠ .saved → c.site < 256 →
      ∃ t, exec (.uncorrectableError (.lm c.key off)) s = .next t ∧
        t.ctxs = [{ c with poisonLm := addPoison c.poisonLm (off / 8) }] ∧ (t.site c.site).errs = (s.site c.site).errs + 1) ∧
    (∀ e cw n, (s.edge e).st ≠ 0 → s.linkServe e cw n = none) ∧
    (∀ e a b, e < 4 → a ≤ 64 → b ≤ 64 → (s.edge e).due = false → ∃ t, exec (.linkWindow e a b) s = .next t ∧
      t.edge e = { s.edge e with rplA := a, rplB := b }) ∧
    (∀ e a b, e < 4 → (64 < a ∨ 64 < b ∨ (s.edge e).due = true) → (s.edge e).st = 0 → ∃ t, exec (.linkWindow e a b) s = .next t ∧
      (t.edge e).st = 1 ∧ (t.edge e).rtr = ((s.edge e).rtr + 1) % 65536 ∧ (t.die e).sticky.getLsbD 1 = true ∧
      (t.die ((e + 1) % 4)).sticky.getLsbD 1 = true) ∧
    (∀ e a b, e < 4 → (s.edge e).st = 1 →
      (4 ≤ a → 4 ≤ b → ∃ t, exec (.retrainAttempt e a b) s = .next t ∧ (t.edge e).st = 0 ∧
        (t.edge e).wid = min 8 (min a b)) ∧
      ((a < 4 ∨ b < 4) → (s.edge e).attempts = 2 → ∃ t, exec (.retrainAttempt e a b) s = .next t ∧ (t.edge e).st = 2 ∧
        (t.edge e).synced = false)) ∧
    (∀ e, e < 4 → (s.edge e).st = 2 → (s.edge e).synced = false →
      (s.linked e ((e + 1) % 4) = true → ∃ t, exec (.routeResync e) s = .next t ∧ (t.edge e).synced = true) ∧
      ((s.die (s.farDie e)).inService = true → s.farDie e < 4 →
        ∃ t, exec (.ltoExpiry e) s = .next t ∧ (t.die (s.farDie e)).inService = false)) ∧
    (∀ d, d < 4 → (s.die d).inService = true → ∃ t, exec (.dieLoss d) s = .next t ∧ (t.die d).inService = false ∧
      (t.edge d).st = 2 ∧ (t.edge ((d + 3) % 4)).st = 2 ∧ t.reservations = [] ∧ t.saddle.pending = true ∧
      ∀ k, k < 4 → k ≠ d → (t.die k).inService = (s.die k).inService ∧
        ((s.die k).inService = true → (t.die k).sticky.getLsbD 2 = true) ∧
        ((s.die k).inService = true → ((k = (d + 1) % 4 ∧ (s.edge d).st ≠ 2) ∨ (d = (k + 1) % 4 ∧ (s.edge k).st ≠ 2)) →
          (t.die k).sticky.getLsbD 1 = true)) ∧
    (∀ d p x, d < 4 → (s.die d).ports[p]? = some x → s.clpOut = [] →
      (s.portsTrain d = false → exec (.portUp d p) s = .next s ∧ exec (.portDown d p) s = .next s) ∧
      (x.st = 0 → ∃ t, exec (.portLoss d p) s = .next t ∧ (t.die d).ports[p]? = some ⟨1, (x.downs + 1) % 65536⟩ ∧
        (t.die d).sticky.getLsbD 3 = true) ∧
      (x.st ≠ 0 → exec (.portLoss d p) s = .next s) ∧
      (x.st = 1 → s.portsTrain d = true → (∃ t, exec (.portUp d p) s = .next t ∧ (t.die d).ports[p]? = some { x with st := 0 }) ∧
        ∃ t, exec (.portDown d p) s = .next t ∧ (t.die d).ports[p]? = some { x with st := 2 })) ∧
    ∀ ch, ch < 384 → s.chans.length = 384 → ∃ t, exec (.channelLost ch) s = .next t ∧ (t.chan ch).lost = true ∧
      (t.die (ch / 96)).sticky.getLsbD 4 = true

/-- R27, R296, R310, R312, R315, R366, R370, R375 and R387 to R390: power comes and goes, boot stages advance or time out, the
die links train with the first stage and the fabric ports with the fifth, and a live replacement is verified, handed over with
a state record of a version that the new image accepts, completed, abandoned, or rolled back once its deadline runs, which is
from step 3, of a distributor from step 2. The model's own: HBM, dies and edges as power-on leaves them (assumptions 2 and 3), ERR
5 for a refused image (49), requests that wait in a list (58, DEDUCED), a stage that advances with its images loaded and no
heartbeats before (62, DEDUCED), the version of a record (87), a staged image read as its bytes in poisoned HBM (115, DESIGN
CHOICE), and the nominal cap until the first coolant report (127, DESIGN CHOICE). -/
def Obligations.FirmwareEvents : Prop :=
  ∀ s : State, s.dies.length = 4 →
    (∀ k, s.powered = false → ∃ t, exec (.powerOn k) s = .next t ∧ t.powered = true ∧ t.persist = s.persist ∧
      t.saddle.cooling = k ∧ t.saddle.cap = (limitsOf k).nominal.toNat ∧
      t.hbm = State.reset.hbm ∧ t.ctxs = [] ∧ t.dies = State.reset.dies ∧ t.edges = State.reset.edges) ∧
    (∃ t, exec .powerLoss s = .next t ∧ t.powered = false ∧ t.persist = s.persist ∧ t.ctxs = [] ∧
      t.hbm = State.reset.hbm) ∧
    (∀ n, s.powered = true → n ≤ 4 → (∀ d, d < 4 → (s.die d).inService = true ∧ (s.die d).stage = n ∧
        (1 ≤ n → ((s.die d).fw.getD (targetOf n - 1) none).isSome = true)) →
      ∃ t, exec .bootStageAdvance s = .next t ∧ (∀ d, d < 4 → (t.die d).stage = n + 1) ∧
        (n = 0 → ∀ e ∈ t.edges, e.st ≠ 1) ∧ (n = 4 → ∀ d ∈ t.dies, ∀ p ∈ d.ports, p.st ≠ 1)) ∧
    (∀ d f, d < 4 → (s.die d).fw.getD (targetOf (s.die d).stage - 1) none = some f → f.beating = false →
      ∃ t, exec (.bootHeartbeatTimeout d) s = .next t ∧ (t.die d).err = 6 ∧
        (t.die d).fw.getD (targetOf (s.die d).stage - 1) none = none) ∧
    (∀ r, s.repl = some r → s.opens r.die r.pa (2 ^ 26) = false → exec .imageVerified s = .next s) ∧
    (∀ r, s.repl = some r → r.die < 4 → r.step = 1 → r.image = none → s.opens r.die r.pa (2 ^ 26) = true →
      (∀ w, s.verify (s.staged r.pa) = .ok w → imgTarget (s.staged r.pa) = r.target →
        ∃ t, exec .imageVerified s = .next t ∧ t.repl = some { r with image := some w } ∧
          (r.target - 1 < (s.die r.die).meas.length → (t.die r.die).meas.getD (r.target - 1) 0 =
            sha256 (beBytes 32 ((s.die r.die).meas.getD (r.target - 1) 0).toNat ++ beBytes 32 w.digest.toNat))) ∧
      (∀ e, s.verify (s.staged r.pa) = .error e →
        ∃ t, exec .imageVerified s = .next t ∧ t.repl = none ∧ (t.die r.die).err = 5 ∧
          (t.die r.die).fw = (s.die r.die).fw)) ∧
    (∀ r w, s.repl = some r → r.die < 4 → r.step = 1 → r.image = some w →
      (∃ t, exec .handoverPoint s = .next t ∧ t.repl = some { r with
        step := 2, record := some (recordVersion, s.handOver r.die r.target r.pa) } ∧ t.ctxs = s.ctxs) ∧
      ∃ t, exec .handoverTimeout s = .next t ∧ t.repl = none ∧ (t.die r.die).err = 5 ∧
        (t.die r.die).fw = (s.die r.die).fw) ∧
    (∀ r, s.repl = some r → r.step = 2 → ∃ t, exec .handoverPoint s = .next t ∧ t.repl = some { r with step := 3 } ∧
      t.ctxs = s.ctxs) ∧
    (∀ r, s.repl = some r → r.beats = false → exec .heartbeat s = .next s) ∧
    (∀ r, s.repl = some r → r.timed = false → exec .rollback s = .next s) ∧
    (∀ r w, s.repl = some r → r.die < 4 → 2 ≤ r.step → r.image = some w → 1 ≤ r.target → r.target ≤ 5 →
      (s.die r.die).fw.length = 5 → (∀ c ∈ s.ctxs, c.status = .saved → c.events = 0) →
      (r.beats = true → ∃ t, exec .heartbeat s = .next t ∧ t.repl = none ∧ (t.die r.die).repl = (s.die r.die).repl + 1 ∧
        (t.die r.die).fw.getD (r.target - 1) none = some { w with beating := true } ∧ t.deferred = [] ∧ t.ctxs = s.ctxs ∧
        t.agenda = s.deferred.map Turn.event ++ s.agenda) ∧
      (r.timed = true → ∃ t, exec .rollback s = .next t ∧ t.repl = none ∧ (t.die r.die).rollbk = (s.die r.die).rollbk + 1 ∧
        (t.die r.die).err = 7 ∧ (t.die r.die).fw = (s.die r.die).fw ∧ t.deferred = [] ∧ t.ctxs = s.ctxs ∧
        t.agenda = s.deferred.map Turn.event ++ s.agenda)) ∧
    ∀ d target, d < 4 → (s.die d).inService = true → s.repl = none →
      ∃ t, exec (.controllerSilent d target) s = .next t ∧ (t.die d).inService = false
end

