-- ==== Sys2Proof/Laws/Memory.lean ====
section
/-! SUPPORT. Lemmas of byte memories: what a write leaves at each address, and that every operation keeps the canonical
form. -/
namespace Sys2Proof.Machine
open Host

/-! ### Reading after writing -/

theorem Memory.byte_nil (a : Nat) : Memory.byte [] a = 0 := rfl

theorem Memory.byte_cons (c : Cell) (m : Memory) (x : Nat) :
    Memory.byte (c :: m) x = if c.1 = x then c.2 else Memory.byte m x := by
  by_cases h : c.1 = x <;> simp [Memory.byte, h]

theorem Memory.byte_append_of_not_mem (m n : Memory) (x : Nat) (h : ∀ c ∈ m, c.1 ≠ x) :
    Memory.byte (m ++ n) x = Memory.byte n x := by
  induction m with
  | nil => rfl
  | cons c m ih =>
    rw [List.cons_append, Memory.byte_cons, if_neg (h c (by simp))]
    exact ih fun d hd => h d (by simp [hd])

theorem Memory.byte_append_of_no_right (m n : Memory) (x : Nat) (h : ∀ c ∈ n, c.1 ≠ x) :
    Memory.byte (m ++ n) x = Memory.byte m x := by
  induction m with
  | nil => simpa using Memory.byte_append_of_not_mem n [] x h
  | cons c m ih => rw [List.cons_append, Memory.byte_cons, Memory.byte_cons, ih]

theorem Memory.byte_filter (m : Memory) (p : Cell → Bool) (x : Nat) (h : ∀ c ∈ m, c.1 = x → p c = true) :
    Memory.byte (m.filter p) x = Memory.byte m x := by
  induction m with
  | nil => rfl
  | cons c m ih =>
    have ih := ih fun d hd => h d (by simp [hd])
    by_cases hp : p c = true
    · rw [List.filter_cons_of_pos hp, Memory.byte_cons, Memory.byte_cons, ih]
    · have hx : c.1 ≠ x := fun e => hp (h c (by simp) e)
      rw [List.filter_cons_of_neg hp, Memory.byte_cons, if_neg hx, ih]

theorem cellsAt_range (bs : List Byte) (a : Nat) : ∀ c ∈ cellsAt a bs, a ≤ c.1 ∧ c.1 < a + bs.length := by
  induction bs generalizing a with
  | nil => simp [cellsAt]
  | cons b bs ih =>
    intro c hc
    simp only [cellsAt] at hc
    split at hc
    · have := ih (a + 1) c hc
      simp; omega
    · rcases List.mem_cons.1 hc with rfl | hc
      · simp
      · have := ih (a + 1) c hc
        simp; omega

theorem cellsAt_byte (bs : List Byte) (a x : Nat) :
    Memory.byte (cellsAt a bs) x = if a ≤ x then bs.getD (x - a) 0 else 0 := by
  induction bs generalizing a with
  | nil => simp [cellsAt, Memory.byte_nil]
  | cons b bs ih =>
    by_cases hb : b = 0
    · simp only [cellsAt, hb, if_true, ih]
      rcases Nat.lt_trichotomy x a with h | h | h
      · simp [show ¬ a ≤ x by omega, show ¬ a + 1 ≤ x by omega]
      · subst h; simp [show ¬ x + 1 ≤ x by omega]
      · obtain ⟨k, hk⟩ : ∃ k, x - a = k + 1 := ⟨x - a - 1, by omega⟩
        simp [show a ≤ x by omega, show a + 1 ≤ x by omega, show x - (a + 1) = k by omega, hk]
    · simp only [cellsAt, hb, if_false, Memory.byte_cons, ih]
      rcases Nat.lt_trichotomy x a with h | h | h
      · simp [show ¬ a = x by omega, show ¬ a ≤ x by omega, show ¬ a + 1 ≤ x by omega]
      · subst h; simp
      · obtain ⟨k, hk⟩ : ∃ k, x - a = k + 1 := ⟨x - a - 1, by omega⟩
        simp [show ¬ a = x by omega, show a ≤ x by omega, show a + 1 ≤ x by omega, show x - (a + 1) = k by omega, hk]

/-- What a write leaves at each address: its bytes in their range, and everything else as it was. -/
theorem Memory.byte_write (m : Memory) (a : Nat) (bs : List Byte) (x : Nat) :
    (m.write a bs).byte x = if a ≤ x ∧ x < a + bs.length then bs.getD (x - a) 0 else m.byte x := by
  unfold Memory.write
  by_cases h1 : x < a
  · rw [Memory.byte_append_of_no_right, Memory.byte_append_of_no_right, Memory.byte_filter]
    · simp [show ¬ a ≤ x by omega]
    · intro c _ hc; simp; omega
    · intro c hc; have := cellsAt_range bs a c hc; omega
    · intro c hc; simp at hc; omega
  · by_cases h2 : x < a + bs.length
    · rw [Memory.byte_append_of_no_right, Memory.byte_append_of_not_mem, cellsAt_byte]
      · simp [h2, show a ≤ x by omega]
      · intro c hc; simp at hc; omega
      · intro c hc; simp at hc; omega
    · rw [Memory.byte_append_of_not_mem, Memory.byte_filter]
      · simp [h2]
      · intro c _ hc; simp; omega
      · intro c hc
        rcases List.mem_append.1 hc with hc | hc
        · simp at hc; omega
        · have := cellsAt_range bs a c hc; omega

/-! ### The canonical form -/

theorem Memory.wfFrom_mono {lo lo' : Nat} {m : Memory} (h : Memory.wfFrom lo m = true) (hl : lo' ≤ lo) :
    Memory.wfFrom lo' m = true := by
  cases m with
  | nil => rfl
  | cons c m =>
    obtain ⟨a, b⟩ := c
    simp only [Memory.wfFrom, Bool.and_eq_true, decide_eq_true_eq] at h ⊢
    exact ⟨⟨by omega, h.1.2⟩, h.2⟩

theorem Memory.wfFrom_lower {lo : Nat} {m : Memory} (h : Memory.wfFrom lo m = true) : ∀ c ∈ m, lo ≤ c.1 := by
  induction m generalizing lo with
  | nil => simp
  | cons c m ih =>
    obtain ⟨a, b⟩ := c
    simp only [Memory.wfFrom, Bool.and_eq_true, decide_eq_true_eq] at h
    intro d hd
    rcases List.mem_cons.1 hd with rfl | hd
    · exact h.1.1
    · have := ih h.2 d hd
      omega

theorem Memory.wfFrom_filter {lo : Nat} {m : Memory} (p : Cell → Bool) (h : Memory.wfFrom lo m = true) :
    Memory.wfFrom lo (m.filter p) = true := by
  induction m generalizing lo with
  | nil => rfl
  | cons c m ih =>
    obtain ⟨a, b⟩ := c
    simp only [Memory.wfFrom, Bool.and_eq_true, decide_eq_true_eq] at h
    have hm := ih h.2
    by_cases hp : p (a, b) = true
    · rw [List.filter_cons_of_pos hp]
      simp only [Memory.wfFrom, Bool.and_eq_true, decide_eq_true_eq]
      exact ⟨h.1, hm⟩
    · rw [List.filter_cons_of_neg hp]
      exact Memory.wfFrom_mono hm (by omega)

theorem Memory.wfFrom_raise {lo k : Nat} {m : Memory} (h : Memory.wfFrom lo m = true) (hk : ∀ c ∈ m, k ≤ c.1) :
    Memory.wfFrom k m = true := by
  cases m with
  | nil => rfl
  | cons c m =>
    obtain ⟨a, b⟩ := c
    simp only [Memory.wfFrom, Bool.and_eq_true, decide_eq_true_eq] at h ⊢
    exact ⟨⟨hk (a, b) (by simp), h.1.2⟩, h.2⟩

theorem Memory.wfFrom_append {lo hi : Nat} {m n : Memory} (hm : Memory.wfFrom lo m = true)
    (hb : ∀ c ∈ m, c.1 < hi) (hl : lo ≤ hi) (hn : Memory.wfFrom hi n = true) : Memory.wfFrom lo (m ++ n) = true := by
  induction m generalizing lo with
  | nil => exact Memory.wfFrom_mono hn hl
  | cons c m ih =>
    obtain ⟨a, b⟩ := c
    simp only [Memory.wfFrom, Bool.and_eq_true, decide_eq_true_eq] at hm
    simp only [List.cons_append, Memory.wfFrom, Bool.and_eq_true, decide_eq_true_eq]
    have ha := hb (a, b) (by simp)
    exact ⟨hm.1, ih hm.2 (fun d hd => hb d (by simp [hd])) ha⟩

theorem cellsAt_wf (bs : List Byte) (a : Nat) : Memory.wfFrom a (cellsAt a bs) = true := by
  induction bs generalizing a with
  | nil => rfl
  | cons b bs ih =>
    simp only [cellsAt]
    split
    · exact Memory.wfFrom_mono (ih (a + 1)) (by omega)
    · rename_i hb
      simp only [Memory.wfFrom, Bool.and_eq_true, decide_eq_true_eq]
      exact ⟨⟨Nat.le_refl a, by simpa using hb⟩, ih (a + 1)⟩

/-- A memory cut out around [a, b), with canonical cells of that range put in, is canonical. -/
theorem Memory.wf_around {m x : Memory} {a b : Nat} (hm : m.wf = true) (hx : Memory.wfFrom a x = true)
    (hxb : ∀ c ∈ x, c.1 < b) (hab : a ≤ b) :
    Memory.wf (m.filter (fun c => decide (c.1 < a)) ++ x ++ m.filter (fun c => decide (b ≤ c.1))) = true := by
  have h3 : Memory.wfFrom b (m.filter fun c => decide (b ≤ c.1)) = true :=
    Memory.wfFrom_raise (Memory.wfFrom_filter _ hm) fun c hc => by simpa using (List.mem_filter.1 hc).2
  have h2 := Memory.wfFrom_append hx hxb hab h3
  rw [List.append_assoc]
  exact Memory.wfFrom_append (Memory.wfFrom_filter _ hm) (fun c hc => by simpa using (List.mem_filter.1 hc).2)
    (Nat.zero_le a) h2

/-- A write keeps the canonical form. -/
theorem Memory.write_wf {m : Memory} (h : m.wf = true) (a : Nat) (bs : List Byte) : (m.write a bs).wf = true :=
  Memory.wf_around h (cellsAt_wf bs a) (fun c hc => (cellsAt_range bs a c hc).2) (by omega)

theorem Memory.wfFrom_map_sub {m : Memory} {lo a : Nat} (h : Memory.wfFrom lo m = true) (hl : a ≤ lo) :
    Memory.wfFrom (lo - a) (m.map fun c => (c.1 - a, c.2)) = true := by
  induction m generalizing lo with
  | nil => rfl
  | cons c m ih =>
    obtain ⟨x, b⟩ := c
    simp only [Memory.wfFrom, Bool.and_eq_true, decide_eq_true_eq] at h
    simp only [List.map_cons, Memory.wfFrom, Bool.and_eq_true, decide_eq_true_eq]
    refine ⟨⟨by omega, h.1.2⟩, ?_⟩
    have := ih h.2 (by omega)
    exact Memory.wfFrom_mono this (by omega)

theorem Memory.wfFrom_map_add {m : Memory} {lo : Nat} (a : Nat) (h : Memory.wfFrom lo m = true) :
    Memory.wfFrom (lo + a) (m.map fun c => (c.1 + a, c.2)) = true := by
  induction m generalizing lo with
  | nil => rfl
  | cons c m ih =>
    obtain ⟨x, b⟩ := c
    simp only [Memory.wfFrom, Bool.and_eq_true, decide_eq_true_eq] at h
    simp only [List.map_cons, Memory.wfFrom, Bool.and_eq_true, decide_eq_true_eq]
    refine ⟨⟨by omega, h.1.2⟩, ?_⟩
    have := ih h.2
    exact Memory.wfFrom_mono this (by omega)

/-- A part of a memory is canonical. -/
theorem Memory.slice_wf {m : Memory} (h : m.wf = true) (a n : Nat) : (m.slice a n).wf = true := by
  have hf : Memory.wfFrom a (m.filter fun c => decide (a ≤ c.1) && decide (c.1 < a + n)) = true :=
    Memory.wfFrom_raise (Memory.wfFrom_filter _ h) fun c hc => by
      have := (List.mem_filter.1 hc).2
      simp at this
      exact this.1
  simpa [Memory.slice, Memory.wf] using Memory.wfFrom_map_sub hf (Nat.le_refl a)

/-- Putting a canonical part into a memory keeps the canonical form. -/
theorem Memory.splice_wf {m x : Memory} (h : m.wf = true) (hx : x.wf = true) (a n : Nat) :
    (m.splice a n x).wf = true := by
  refine Memory.wf_around h ?_ ?_ (by omega)
  · simpa [Memory.wf] using Memory.wfFrom_map_add a (Memory.slice_wf hx 0 n)
  · intro c hc
    obtain ⟨d, hd, rfl⟩ := List.mem_map.1 hc
    obtain ⟨e, he, rfl⟩ := List.mem_map.1 hd
    have := (List.mem_filter.1 he).2
    simp at this
    simp; omega

/-- A memory made of pieces is canonical. -/
theorem memoryOf_wf (ps : List (Nat × List Byte)) : (memoryOf ps).wf = true := by
  suffices ∀ m : Memory, m.wf = true → (ps.foldl (fun m p => m.write p.1 p.2) m).wf = true from this [] rfl
  induction ps with
  | nil => intro m hm; exact hm
  | cons p ps ih => intro m hm; exact ih _ (Memory.write_wf hm _ _)

end Sys2Proof.Machine
end

