-- ==== Sys2Proof/Laws/State.lean ====
section
/-! SUPPORT. The fields that each update of a context and of the module leaves alone, one lemma per field. -/
namespace Sys2Proof.Machine

section
variable (c : Ctx)

/-! Ctx.pushHeld changes inflight only. -/

@[simp] theorem Ctx.pushHeld_key (d : Dest) (v l : Nat) (fl : Flags) (held : Bool) : (c.pushHeld d v l fl held).key = c.key := rfl
@[simp] theorem Ctx.pushHeld_site (d : Dest) (v l : Nat) (fl : Flags) (held : Bool) : (c.pushHeld d v l fl held).site = c.site := rfl
@[simp] theorem Ctx.pushHeld_status (d : Dest) (v l : Nat) (fl : Flags) (held : Bool) : (c.pushHeld d v l fl held).status = c.status := rfl
@[simp] theorem Ctx.pushHeld_info (d : Dest) (v l : Nat) (fl : Flags) (held : Bool) : (c.pushHeld d v l fl held).info = c.info := rfl
@[simp] theorem Ctx.pushHeld_part (d : Dest) (v l : Nat) (fl : Flags) (held : Bool) : (c.pushHeld d v l fl held).part = c.part := rfl
@[simp] theorem Ctx.pushHeld_pc (d : Dest) (v l : Nat) (fl : Flags) (held : Bool) : (c.pushHeld d v l fl held).pc = c.pc := rfl
@[simp] theorem Ctx.pushHeld_xfer (d : Dest) (v l : Nat) (fl : Flags) (held : Bool) : (c.pushHeld d v l fl held).xfer = c.xfer := rfl
@[simp] theorem Ctx.pushHeld_aside (d : Dest) (v l : Nat) (fl : Flags) (held : Bool) : (c.pushHeld d v l fl held).aside = c.aside := rfl
@[simp] theorem Ctx.pushHeld_loops (d : Dest) (v l : Nat) (fl : Flags) (held : Bool) : (c.pushHeld d v l fl held).loops = c.loops := rfl
@[simp] theorem Ctx.pushHeld_repm (d : Dest) (v l : Nat) (fl : Flags) (held : Bool) : (c.pushHeld d v l fl held).repm = c.repm := rfl
@[simp] theorem Ctx.pushHeld_s (d : Dest) (v l : Nat) (fl : Flags) (held : Bool) : (c.pushHeld d v l fl held).s = c.s := rfl
@[simp] theorem Ctx.pushHeld_a (d : Dest) (v l : Nat) (fl : Flags) (held : Bool) : (c.pushHeld d v l fl held).a = c.a := rfl
@[simp] theorem Ctx.pushHeld_va (d : Dest) (v l : Nat) (fl : Flags) (held : Bool) : (c.pushHeld d v l fl held).va = c.va := rfl
@[simp] theorem Ctx.pushHeld_vb (d : Dest) (v l : Nat) (fl : Flags) (held : Bool) : (c.pushHeld d v l fl held).vb = c.vb := rfl
@[simp] theorem Ctx.pushHeld_p (d : Dest) (v l : Nat) (fl : Flags) (held : Bool) : (c.pushHeld d v l fl held).p = c.p := rfl
@[simp] theorem Ctx.pushHeld_f (d : Dest) (v l : Nat) (fl : Flags) (held : Bool) : (c.pushHeld d v l fl held).f = c.f := rfl
@[simp] theorem Ctx.pushHeld_b (d : Dest) (v l : Nat) (fl : Flags) (held : Bool) : (c.pushHeld d v l fl held).b = c.b := rfl
@[simp] theorem Ctx.pushHeld_ft (d : Dest) (v l : Nat) (fl : Flags) (held : Bool) : (c.pushHeld d v l fl held).ft = c.ft := rfl
@[simp] theorem Ctx.pushHeld_ma (d : Dest) (v l : Nat) (fl : Flags) (held : Bool) : (c.pushHeld d v l fl held).ma = c.ma := rfl
@[simp] theorem Ctx.pushHeld_ch (d : Dest) (v l : Nat) (fl : Flags) (held : Bool) : (c.pushHeld d v l fl held).ch = c.ch := rfl
@[simp] theorem Ctx.pushHeld_mcfg (d : Dest) (v l : Nat) (fl : Flags) (held : Bool) : (c.pushHeld d v l fl held).mcfg = c.mcfg := rfl
@[simp] theorem Ctx.pushHeld_tabA (d : Dest) (v l : Nat) (fl : Flags) (held : Bool) : (c.pushHeld d v l fl held).tabA = c.tabA := rfl
@[simp] theorem Ctx.pushHeld_tabB (d : Dest) (v l : Nat) (fl : Flags) (held : Bool) : (c.pushHeld d v l fl held).tabB = c.tabB := rfl
@[simp] theorem Ctx.pushHeld_mode (d : Dest) (v l : Nat) (fl : Flags) (held : Bool) : (c.pushHeld d v l fl held).mode = c.mode := rfl
@[simp] theorem Ctx.pushHeld_events (d : Dest) (v l : Nat) (fl : Flags) (held : Bool) : (c.pushHeld d v l fl held).events = c.events := rfl
@[simp] theorem Ctx.pushHeld_evmask (d : Dest) (v l : Nat) (fl : Flags) (held : Bool) : (c.pushHeld d v l fl held).evmask = c.evmask := rfl
@[simp] theorem Ctx.pushHeld_fault (d : Dest) (v l : Nat) (fl : Flags) (held : Bool) : (c.pushHeld d v l fl held).fault = c.fault := rfl
@[simp] theorem Ctx.pushHeld_srkey (d : Dest) (v l : Nat) (fl : Flags) (held : Bool) : (c.pushHeld d v l fl held).srkey = c.srkey := rfl
@[simp] theorem Ctx.pushHeld_clock (d : Dest) (v l : Nat) (fl : Flags) (held : Bool) : (c.pushHeld d v l fl held).clock = c.clock := rfl
@[simp] theorem Ctx.pushHeld_replays (d : Dest) (v l : Nat) (fl : Flags) (held : Bool) : (c.pushHeld d v l fl held).replays = c.replays := rfl
@[simp] theorem Ctx.pushHeld_grant (d : Dest) (v l : Nat) (fl : Flags) (held : Bool) : (c.pushHeld d v l fl held).grant = c.grant := rfl
@[simp] theorem Ctx.pushHeld_lm (d : Dest) (v l : Nat) (fl : Flags) (held : Bool) : (c.pushHeld d v l fl held).lm = c.lm := rfl
@[simp] theorem Ctx.pushHeld_ts (d : Dest) (v l : Nat) (fl : Flags) (held : Bool) : (c.pushHeld d v l fl held).ts = c.ts := rfl
@[simp] theorem Ctx.pushHeld_as (d : Dest) (v l : Nat) (fl : Flags) (held : Bool) : (c.pushHeld d v l fl held).as = c.as := rfl
@[simp] theorem Ctx.pushHeld_istore (d : Dest) (v l : Nat) (fl : Flags) (held : Bool) : (c.pushHeld d v l fl held).istore = c.istore := rfl
@[simp] theorem Ctx.pushHeld_sems (d : Dest) (v l : Nat) (fl : Flags) (held : Bool) : (c.pushHeld d v l fl held).sems = c.sems := rfl
@[simp] theorem Ctx.pushHeld_poisonLm (d : Dest) (v l : Nat) (fl : Flags) (held : Bool) : (c.pushHeld d v l fl held).poisonLm = c.poisonLm := rfl
@[simp] theorem Ctx.pushHeld_poisonTs (d : Dest) (v l : Nat) (fl : Flags) (held : Bool) : (c.pushHeld d v l fl held).poisonTs = c.poisonTs := rfl
@[simp] theorem Ctx.pushHeld_poisonAs (d : Dest) (v l : Nat) (fl : Flags) (held : Bool) : (c.pushHeld d v l fl held).poisonAs = c.poisonAs := rfl
@[simp] theorem Ctx.pushHeld_poisonSem (d : Dest) (v l : Nat) (fl : Flags) (held : Bool) : (c.pushHeld d v l fl held).poisonSem = c.poisonSem := rfl
@[simp] theorem Ctx.pushHeld_poisonIs (d : Dest) (v l : Nat) (fl : Flags) (held : Bool) : (c.pushHeld d v l fl held).poisonIs = c.poisonIs := rfl
@[simp] theorem Ctx.pushHeld_issued (d : Dest) (v l : Nat) (fl : Flags) (held : Bool) : (c.pushHeld d v l fl held).issued = c.issued := rfl
@[simp] theorem Ctx.pushHeld_issue (d : Dest) (v l : Nat) (fl : Flags) (held : Bool) : (c.pushHeld d v l fl held).issue = c.issue := rfl
@[simp] theorem Ctx.pushHeld_trapPc (d : Dest) (v l : Nat) (fl : Flags) (held : Bool) : (c.pushHeld d v l fl held).trapPc = c.trapPc := rfl
@[simp] theorem Ctx.pushHeld_tretVal (d : Dest) (v l : Nat) (fl : Flags) (held : Bool) : (c.pushHeld d v l fl held).tretVal = c.tretVal := rfl
@[simp] theorem Ctx.pushHeld_sys (d : Dest) (v l : Nat) (fl : Flags) (held : Bool) : (c.pushHeld d v l fl held).sys = c.sys := rfl
@[simp] theorem Ctx.pushHeld_mq (d : Dest) (v l : Nat) (fl : Flags) (held : Bool) : (c.pushHeld d v l fl held).mq = c.mq := rfl
@[simp] theorem Ctx.pushHeld_mmagStep (d : Dest) (v l : Nat) (fl : Flags) (held : Bool) : (c.pushHeld d v l fl held).mmagStep = c.mmagStep := rfl
@[simp] theorem Ctx.pushHeld_mmagOut (d : Dest) (v l : Nat) (fl : Flags) (held : Bool) : (c.pushHeld d v l fl held).mmagOut = c.mmagOut := rfl
@[simp] theorem Ctx.pushHeld_mmagIn (d : Dest) (v l : Nat) (fl : Flags) (held : Bool) : (c.pushHeld d v l fl held).mmagIn = c.mmagIn := rfl
@[simp] theorem Ctx.pushHeld_ops (d : Dest) (v l : Nat) (fl : Flags) (held : Bool) : (c.pushHeld d v l fl held).ops = c.ops := rfl
@[simp] theorem Ctx.pushHeld_rels (d : Dest) (v l : Nat) (fl : Flags) (held : Bool) : (c.pushHeld d v l fl held).rels = c.rels := rfl
@[simp] theorem Ctx.pushHeld_latom (d : Dest) (v l : Nat) (fl : Flags) (held : Bool) : (c.pushHeld d v l fl held).latom = c.latom := rfl
@[simp] theorem Ctx.pushHeld_failed (d : Dest) (v l : Nat) (fl : Flags) (held : Bool) : (c.pushHeld d v l fl held).failed = c.failed := rfl
@[simp] theorem Ctx.pushHeld_fatal (d : Dest) (v l : Nat) (fl : Flags) (held : Bool) : (c.pushHeld d v l fl held).fatal = c.fatal := rfl
@[simp] theorem Ctx.pushHeld_trapCode (d : Dest) (v l : Nat) (fl : Flags) (held : Bool) : (c.pushHeld d v l fl held).trapCode = c.trapCode := rfl
@[simp] theorem Ctx.pushHeld_yielded (d : Dest) (v l : Nat) (fl : Flags) (held : Bool) : (c.pushHeld d v l fl held).yielded = c.yielded := rfl

/-! Ctx.pushF changes inflight only. -/

@[simp] theorem Ctx.pushF_key (d : Dest) (v l : Nat) (fl : Flags) : (c.pushF d v l fl).key = c.key := rfl
@[simp] theorem Ctx.pushF_site (d : Dest) (v l : Nat) (fl : Flags) : (c.pushF d v l fl).site = c.site := rfl
@[simp] theorem Ctx.pushF_status (d : Dest) (v l : Nat) (fl : Flags) : (c.pushF d v l fl).status = c.status := rfl
@[simp] theorem Ctx.pushF_info (d : Dest) (v l : Nat) (fl : Flags) : (c.pushF d v l fl).info = c.info := rfl
@[simp] theorem Ctx.pushF_part (d : Dest) (v l : Nat) (fl : Flags) : (c.pushF d v l fl).part = c.part := rfl
@[simp] theorem Ctx.pushF_pc (d : Dest) (v l : Nat) (fl : Flags) : (c.pushF d v l fl).pc = c.pc := rfl
@[simp] theorem Ctx.pushF_xfer (d : Dest) (v l : Nat) (fl : Flags) : (c.pushF d v l fl).xfer = c.xfer := rfl
@[simp] theorem Ctx.pushF_aside (d : Dest) (v l : Nat) (fl : Flags) : (c.pushF d v l fl).aside = c.aside := rfl
@[simp] theorem Ctx.pushF_loops (d : Dest) (v l : Nat) (fl : Flags) : (c.pushF d v l fl).loops = c.loops := rfl
@[simp] theorem Ctx.pushF_repm (d : Dest) (v l : Nat) (fl : Flags) : (c.pushF d v l fl).repm = c.repm := rfl
@[simp] theorem Ctx.pushF_s (d : Dest) (v l : Nat) (fl : Flags) : (c.pushF d v l fl).s = c.s := rfl
@[simp] theorem Ctx.pushF_a (d : Dest) (v l : Nat) (fl : Flags) : (c.pushF d v l fl).a = c.a := rfl
@[simp] theorem Ctx.pushF_va (d : Dest) (v l : Nat) (fl : Flags) : (c.pushF d v l fl).va = c.va := rfl
@[simp] theorem Ctx.pushF_vb (d : Dest) (v l : Nat) (fl : Flags) : (c.pushF d v l fl).vb = c.vb := rfl
@[simp] theorem Ctx.pushF_p (d : Dest) (v l : Nat) (fl : Flags) : (c.pushF d v l fl).p = c.p := rfl
@[simp] theorem Ctx.pushF_f (d : Dest) (v l : Nat) (fl : Flags) : (c.pushF d v l fl).f = c.f := rfl
@[simp] theorem Ctx.pushF_b (d : Dest) (v l : Nat) (fl : Flags) : (c.pushF d v l fl).b = c.b := rfl
@[simp] theorem Ctx.pushF_ft (d : Dest) (v l : Nat) (fl : Flags) : (c.pushF d v l fl).ft = c.ft := rfl
@[simp] theorem Ctx.pushF_ma (d : Dest) (v l : Nat) (fl : Flags) : (c.pushF d v l fl).ma = c.ma := rfl
@[simp] theorem Ctx.pushF_ch (d : Dest) (v l : Nat) (fl : Flags) : (c.pushF d v l fl).ch = c.ch := rfl
@[simp] theorem Ctx.pushF_mcfg (d : Dest) (v l : Nat) (fl : Flags) : (c.pushF d v l fl).mcfg = c.mcfg := rfl
@[simp] theorem Ctx.pushF_tabA (d : Dest) (v l : Nat) (fl : Flags) : (c.pushF d v l fl).tabA = c.tabA := rfl
@[simp] theorem Ctx.pushF_tabB (d : Dest) (v l : Nat) (fl : Flags) : (c.pushF d v l fl).tabB = c.tabB := rfl
@[simp] theorem Ctx.pushF_mode (d : Dest) (v l : Nat) (fl : Flags) : (c.pushF d v l fl).mode = c.mode := rfl
@[simp] theorem Ctx.pushF_events (d : Dest) (v l : Nat) (fl : Flags) : (c.pushF d v l fl).events = c.events := rfl
@[simp] theorem Ctx.pushF_evmask (d : Dest) (v l : Nat) (fl : Flags) : (c.pushF d v l fl).evmask = c.evmask := rfl
@[simp] theorem Ctx.pushF_fault (d : Dest) (v l : Nat) (fl : Flags) : (c.pushF d v l fl).fault = c.fault := rfl
@[simp] theorem Ctx.pushF_srkey (d : Dest) (v l : Nat) (fl : Flags) : (c.pushF d v l fl).srkey = c.srkey := rfl
@[simp] theorem Ctx.pushF_clock (d : Dest) (v l : Nat) (fl : Flags) : (c.pushF d v l fl).clock = c.clock := rfl
@[simp] theorem Ctx.pushF_replays (d : Dest) (v l : Nat) (fl : Flags) : (c.pushF d v l fl).replays = c.replays := rfl
@[simp] theorem Ctx.pushF_grant (d : Dest) (v l : Nat) (fl : Flags) : (c.pushF d v l fl).grant = c.grant := rfl
@[simp] theorem Ctx.pushF_lm (d : Dest) (v l : Nat) (fl : Flags) : (c.pushF d v l fl).lm = c.lm := rfl
@[simp] theorem Ctx.pushF_ts (d : Dest) (v l : Nat) (fl : Flags) : (c.pushF d v l fl).ts = c.ts := rfl
@[simp] theorem Ctx.pushF_as (d : Dest) (v l : Nat) (fl : Flags) : (c.pushF d v l fl).as = c.as := rfl
@[simp] theorem Ctx.pushF_istore (d : Dest) (v l : Nat) (fl : Flags) : (c.pushF d v l fl).istore = c.istore := rfl
@[simp] theorem Ctx.pushF_sems (d : Dest) (v l : Nat) (fl : Flags) : (c.pushF d v l fl).sems = c.sems := rfl
@[simp] theorem Ctx.pushF_poisonLm (d : Dest) (v l : Nat) (fl : Flags) : (c.pushF d v l fl).poisonLm = c.poisonLm := rfl
@[simp] theorem Ctx.pushF_poisonTs (d : Dest) (v l : Nat) (fl : Flags) : (c.pushF d v l fl).poisonTs = c.poisonTs := rfl
@[simp] theorem Ctx.pushF_poisonAs (d : Dest) (v l : Nat) (fl : Flags) : (c.pushF d v l fl).poisonAs = c.poisonAs := rfl
@[simp] theorem Ctx.pushF_poisonSem (d : Dest) (v l : Nat) (fl : Flags) : (c.pushF d v l fl).poisonSem = c.poisonSem := rfl
@[simp] theorem Ctx.pushF_poisonIs (d : Dest) (v l : Nat) (fl : Flags) : (c.pushF d v l fl).poisonIs = c.poisonIs := rfl
@[simp] theorem Ctx.pushF_issued (d : Dest) (v l : Nat) (fl : Flags) : (c.pushF d v l fl).issued = c.issued := rfl
@[simp] theorem Ctx.pushF_issue (d : Dest) (v l : Nat) (fl : Flags) : (c.pushF d v l fl).issue = c.issue := rfl
@[simp] theorem Ctx.pushF_trapPc (d : Dest) (v l : Nat) (fl : Flags) : (c.pushF d v l fl).trapPc = c.trapPc := rfl
@[simp] theorem Ctx.pushF_tretVal (d : Dest) (v l : Nat) (fl : Flags) : (c.pushF d v l fl).tretVal = c.tretVal := rfl
@[simp] theorem Ctx.pushF_sys (d : Dest) (v l : Nat) (fl : Flags) : (c.pushF d v l fl).sys = c.sys := rfl
@[simp] theorem Ctx.pushF_mq (d : Dest) (v l : Nat) (fl : Flags) : (c.pushF d v l fl).mq = c.mq := rfl
@[simp] theorem Ctx.pushF_mmagStep (d : Dest) (v l : Nat) (fl : Flags) : (c.pushF d v l fl).mmagStep = c.mmagStep := rfl
@[simp] theorem Ctx.pushF_mmagOut (d : Dest) (v l : Nat) (fl : Flags) : (c.pushF d v l fl).mmagOut = c.mmagOut := rfl
@[simp] theorem Ctx.pushF_mmagIn (d : Dest) (v l : Nat) (fl : Flags) : (c.pushF d v l fl).mmagIn = c.mmagIn := rfl
@[simp] theorem Ctx.pushF_ops (d : Dest) (v l : Nat) (fl : Flags) : (c.pushF d v l fl).ops = c.ops := rfl
@[simp] theorem Ctx.pushF_rels (d : Dest) (v l : Nat) (fl : Flags) : (c.pushF d v l fl).rels = c.rels := rfl
@[simp] theorem Ctx.pushF_latom (d : Dest) (v l : Nat) (fl : Flags) : (c.pushF d v l fl).latom = c.latom := rfl
@[simp] theorem Ctx.pushF_failed (d : Dest) (v l : Nat) (fl : Flags) : (c.pushF d v l fl).failed = c.failed := rfl
@[simp] theorem Ctx.pushF_fatal (d : Dest) (v l : Nat) (fl : Flags) : (c.pushF d v l fl).fatal = c.fatal := rfl
@[simp] theorem Ctx.pushF_trapCode (d : Dest) (v l : Nat) (fl : Flags) : (c.pushF d v l fl).trapCode = c.trapCode := rfl
@[simp] theorem Ctx.pushF_yielded (d : Dest) (v l : Nat) (fl : Flags) : (c.pushF d v l fl).yielded = c.yielded := rfl

/-! Ctx.push changes inflight only. -/

@[simp] theorem Ctx.push_key (d : Dest) (v l : Nat) : (c.push d v l).key = c.key := rfl
@[simp] theorem Ctx.push_site (d : Dest) (v l : Nat) : (c.push d v l).site = c.site := rfl
@[simp] theorem Ctx.push_status (d : Dest) (v l : Nat) : (c.push d v l).status = c.status := rfl
@[simp] theorem Ctx.push_info (d : Dest) (v l : Nat) : (c.push d v l).info = c.info := rfl
@[simp] theorem Ctx.push_part (d : Dest) (v l : Nat) : (c.push d v l).part = c.part := rfl
@[simp] theorem Ctx.push_pc (d : Dest) (v l : Nat) : (c.push d v l).pc = c.pc := rfl
@[simp] theorem Ctx.push_xfer (d : Dest) (v l : Nat) : (c.push d v l).xfer = c.xfer := rfl
@[simp] theorem Ctx.push_aside (d : Dest) (v l : Nat) : (c.push d v l).aside = c.aside := rfl
@[simp] theorem Ctx.push_loops (d : Dest) (v l : Nat) : (c.push d v l).loops = c.loops := rfl
@[simp] theorem Ctx.push_repm (d : Dest) (v l : Nat) : (c.push d v l).repm = c.repm := rfl
@[simp] theorem Ctx.push_s (d : Dest) (v l : Nat) : (c.push d v l).s = c.s := rfl
@[simp] theorem Ctx.push_a (d : Dest) (v l : Nat) : (c.push d v l).a = c.a := rfl
@[simp] theorem Ctx.push_va (d : Dest) (v l : Nat) : (c.push d v l).va = c.va := rfl
@[simp] theorem Ctx.push_vb (d : Dest) (v l : Nat) : (c.push d v l).vb = c.vb := rfl
@[simp] theorem Ctx.push_p (d : Dest) (v l : Nat) : (c.push d v l).p = c.p := rfl
@[simp] theorem Ctx.push_f (d : Dest) (v l : Nat) : (c.push d v l).f = c.f := rfl
@[simp] theorem Ctx.push_b (d : Dest) (v l : Nat) : (c.push d v l).b = c.b := rfl
@[simp] theorem Ctx.push_ft (d : Dest) (v l : Nat) : (c.push d v l).ft = c.ft := rfl
@[simp] theorem Ctx.push_ma (d : Dest) (v l : Nat) : (c.push d v l).ma = c.ma := rfl
@[simp] theorem Ctx.push_ch (d : Dest) (v l : Nat) : (c.push d v l).ch = c.ch := rfl
@[simp] theorem Ctx.push_mcfg (d : Dest) (v l : Nat) : (c.push d v l).mcfg = c.mcfg := rfl
@[simp] theorem Ctx.push_tabA (d : Dest) (v l : Nat) : (c.push d v l).tabA = c.tabA := rfl
@[simp] theorem Ctx.push_tabB (d : Dest) (v l : Nat) : (c.push d v l).tabB = c.tabB := rfl
@[simp] theorem Ctx.push_mode (d : Dest) (v l : Nat) : (c.push d v l).mode = c.mode := rfl
@[simp] theorem Ctx.push_events (d : Dest) (v l : Nat) : (c.push d v l).events = c.events := rfl
@[simp] theorem Ctx.push_evmask (d : Dest) (v l : Nat) : (c.push d v l).evmask = c.evmask := rfl
@[simp] theorem Ctx.push_fault (d : Dest) (v l : Nat) : (c.push d v l).fault = c.fault := rfl
@[simp] theorem Ctx.push_srkey (d : Dest) (v l : Nat) : (c.push d v l).srkey = c.srkey := rfl
@[simp] theorem Ctx.push_clock (d : Dest) (v l : Nat) : (c.push d v l).clock = c.clock := rfl
@[simp] theorem Ctx.push_replays (d : Dest) (v l : Nat) : (c.push d v l).replays = c.replays := rfl
@[simp] theorem Ctx.push_grant (d : Dest) (v l : Nat) : (c.push d v l).grant = c.grant := rfl
@[simp] theorem Ctx.push_lm (d : Dest) (v l : Nat) : (c.push d v l).lm = c.lm := rfl
@[simp] theorem Ctx.push_ts (d : Dest) (v l : Nat) : (c.push d v l).ts = c.ts := rfl
@[simp] theorem Ctx.push_as (d : Dest) (v l : Nat) : (c.push d v l).as = c.as := rfl
@[simp] theorem Ctx.push_istore (d : Dest) (v l : Nat) : (c.push d v l).istore = c.istore := rfl
@[simp] theorem Ctx.push_sems (d : Dest) (v l : Nat) : (c.push d v l).sems = c.sems := rfl
@[simp] theorem Ctx.push_poisonLm (d : Dest) (v l : Nat) : (c.push d v l).poisonLm = c.poisonLm := rfl
@[simp] theorem Ctx.push_poisonTs (d : Dest) (v l : Nat) : (c.push d v l).poisonTs = c.poisonTs := rfl
@[simp] theorem Ctx.push_poisonAs (d : Dest) (v l : Nat) : (c.push d v l).poisonAs = c.poisonAs := rfl
@[simp] theorem Ctx.push_poisonSem (d : Dest) (v l : Nat) : (c.push d v l).poisonSem = c.poisonSem := rfl
@[simp] theorem Ctx.push_poisonIs (d : Dest) (v l : Nat) : (c.push d v l).poisonIs = c.poisonIs := rfl
@[simp] theorem Ctx.push_issued (d : Dest) (v l : Nat) : (c.push d v l).issued = c.issued := rfl
@[simp] theorem Ctx.push_issue (d : Dest) (v l : Nat) : (c.push d v l).issue = c.issue := rfl
@[simp] theorem Ctx.push_trapPc (d : Dest) (v l : Nat) : (c.push d v l).trapPc = c.trapPc := rfl
@[simp] theorem Ctx.push_tretVal (d : Dest) (v l : Nat) : (c.push d v l).tretVal = c.tretVal := rfl
@[simp] theorem Ctx.push_sys (d : Dest) (v l : Nat) : (c.push d v l).sys = c.sys := rfl
@[simp] theorem Ctx.push_mq (d : Dest) (v l : Nat) : (c.push d v l).mq = c.mq := rfl
@[simp] theorem Ctx.push_mmagStep (d : Dest) (v l : Nat) : (c.push d v l).mmagStep = c.mmagStep := rfl
@[simp] theorem Ctx.push_mmagOut (d : Dest) (v l : Nat) : (c.push d v l).mmagOut = c.mmagOut := rfl
@[simp] theorem Ctx.push_mmagIn (d : Dest) (v l : Nat) : (c.push d v l).mmagIn = c.mmagIn := rfl
@[simp] theorem Ctx.push_ops (d : Dest) (v l : Nat) : (c.push d v l).ops = c.ops := rfl
@[simp] theorem Ctx.push_rels (d : Dest) (v l : Nat) : (c.push d v l).rels = c.rels := rfl
@[simp] theorem Ctx.push_latom (d : Dest) (v l : Nat) : (c.push d v l).latom = c.latom := rfl
@[simp] theorem Ctx.push_failed (d : Dest) (v l : Nat) : (c.push d v l).failed = c.failed := rfl
@[simp] theorem Ctx.push_fatal (d : Dest) (v l : Nat) : (c.push d v l).fatal = c.fatal := rfl
@[simp] theorem Ctx.push_trapCode (d : Dest) (v l : Nat) : (c.push d v l).trapCode = c.trapCode := rfl
@[simp] theorem Ctx.push_yielded (d : Dest) (v l : Nat) : (c.push d v l).yielded = c.yielded := rfl

/-! Ctx.hold changes issue only. -/

@[simp] theorem Ctx.hold_key : (c.hold).key = c.key := rfl
@[simp] theorem Ctx.hold_site : (c.hold).site = c.site := rfl
@[simp] theorem Ctx.hold_status : (c.hold).status = c.status := rfl
@[simp] theorem Ctx.hold_info : (c.hold).info = c.info := rfl
@[simp] theorem Ctx.hold_part : (c.hold).part = c.part := rfl
@[simp] theorem Ctx.hold_pc : (c.hold).pc = c.pc := rfl
@[simp] theorem Ctx.hold_xfer : (c.hold).xfer = c.xfer := rfl
@[simp] theorem Ctx.hold_aside : (c.hold).aside = c.aside := rfl
@[simp] theorem Ctx.hold_loops : (c.hold).loops = c.loops := rfl
@[simp] theorem Ctx.hold_repm : (c.hold).repm = c.repm := rfl
@[simp] theorem Ctx.hold_s : (c.hold).s = c.s := rfl
@[simp] theorem Ctx.hold_a : (c.hold).a = c.a := rfl
@[simp] theorem Ctx.hold_va : (c.hold).va = c.va := rfl
@[simp] theorem Ctx.hold_vb : (c.hold).vb = c.vb := rfl
@[simp] theorem Ctx.hold_p : (c.hold).p = c.p := rfl
@[simp] theorem Ctx.hold_f : (c.hold).f = c.f := rfl
@[simp] theorem Ctx.hold_b : (c.hold).b = c.b := rfl
@[simp] theorem Ctx.hold_ft : (c.hold).ft = c.ft := rfl
@[simp] theorem Ctx.hold_ma : (c.hold).ma = c.ma := rfl
@[simp] theorem Ctx.hold_ch : (c.hold).ch = c.ch := rfl
@[simp] theorem Ctx.hold_mcfg : (c.hold).mcfg = c.mcfg := rfl
@[simp] theorem Ctx.hold_tabA : (c.hold).tabA = c.tabA := rfl
@[simp] theorem Ctx.hold_tabB : (c.hold).tabB = c.tabB := rfl
@[simp] theorem Ctx.hold_mode : (c.hold).mode = c.mode := rfl
@[simp] theorem Ctx.hold_events : (c.hold).events = c.events := rfl
@[simp] theorem Ctx.hold_evmask : (c.hold).evmask = c.evmask := rfl
@[simp] theorem Ctx.hold_fault : (c.hold).fault = c.fault := rfl
@[simp] theorem Ctx.hold_srkey : (c.hold).srkey = c.srkey := rfl
@[simp] theorem Ctx.hold_clock : (c.hold).clock = c.clock := rfl
@[simp] theorem Ctx.hold_replays : (c.hold).replays = c.replays := rfl
@[simp] theorem Ctx.hold_grant : (c.hold).grant = c.grant := rfl
@[simp] theorem Ctx.hold_lm : (c.hold).lm = c.lm := rfl
@[simp] theorem Ctx.hold_ts : (c.hold).ts = c.ts := rfl
@[simp] theorem Ctx.hold_as : (c.hold).as = c.as := rfl
@[simp] theorem Ctx.hold_istore : (c.hold).istore = c.istore := rfl
@[simp] theorem Ctx.hold_sems : (c.hold).sems = c.sems := rfl
@[simp] theorem Ctx.hold_poisonLm : (c.hold).poisonLm = c.poisonLm := rfl
@[simp] theorem Ctx.hold_poisonTs : (c.hold).poisonTs = c.poisonTs := rfl
@[simp] theorem Ctx.hold_poisonAs : (c.hold).poisonAs = c.poisonAs := rfl
@[simp] theorem Ctx.hold_poisonSem : (c.hold).poisonSem = c.poisonSem := rfl
@[simp] theorem Ctx.hold_poisonIs : (c.hold).poisonIs = c.poisonIs := rfl
@[simp] theorem Ctx.hold_issued : (c.hold).issued = c.issued := rfl
@[simp] theorem Ctx.hold_inflight : (c.hold).inflight = c.inflight := rfl
@[simp] theorem Ctx.hold_trapPc : (c.hold).trapPc = c.trapPc := rfl
@[simp] theorem Ctx.hold_tretVal : (c.hold).tretVal = c.tretVal := rfl
@[simp] theorem Ctx.hold_sys : (c.hold).sys = c.sys := rfl
@[simp] theorem Ctx.hold_mq : (c.hold).mq = c.mq := rfl
@[simp] theorem Ctx.hold_mmagStep : (c.hold).mmagStep = c.mmagStep := rfl
@[simp] theorem Ctx.hold_mmagOut : (c.hold).mmagOut = c.mmagOut := rfl
@[simp] theorem Ctx.hold_mmagIn : (c.hold).mmagIn = c.mmagIn := rfl
@[simp] theorem Ctx.hold_ops : (c.hold).ops = c.ops := rfl
@[simp] theorem Ctx.hold_rels : (c.hold).rels = c.rels := rfl
@[simp] theorem Ctx.hold_latom : (c.hold).latom = c.latom := rfl
@[simp] theorem Ctx.hold_failed : (c.hold).failed = c.failed := rfl
@[simp] theorem Ctx.hold_fatal : (c.hold).fatal = c.fatal := rfl
@[simp] theorem Ctx.hold_trapCode : (c.hold).trapCode = c.trapCode := rfl
@[simp] theorem Ctx.hold_yielded : (c.hold).yielded = c.yielded := rfl

/-! Ctx.holdWaiting changes issue and status only. -/

@[simp] theorem Ctx.holdWaiting_key : (c.holdWaiting).key = c.key := rfl
@[simp] theorem Ctx.holdWaiting_site : (c.holdWaiting).site = c.site := rfl
@[simp] theorem Ctx.holdWaiting_info : (c.holdWaiting).info = c.info := rfl
@[simp] theorem Ctx.holdWaiting_part : (c.holdWaiting).part = c.part := rfl
@[simp] theorem Ctx.holdWaiting_pc : (c.holdWaiting).pc = c.pc := rfl
@[simp] theorem Ctx.holdWaiting_xfer : (c.holdWaiting).xfer = c.xfer := rfl
@[simp] theorem Ctx.holdWaiting_aside : (c.holdWaiting).aside = c.aside := rfl
@[simp] theorem Ctx.holdWaiting_loops : (c.holdWaiting).loops = c.loops := rfl
@[simp] theorem Ctx.holdWaiting_repm : (c.holdWaiting).repm = c.repm := rfl
@[simp] theorem Ctx.holdWaiting_s : (c.holdWaiting).s = c.s := rfl
@[simp] theorem Ctx.holdWaiting_a : (c.holdWaiting).a = c.a := rfl
@[simp] theorem Ctx.holdWaiting_va : (c.holdWaiting).va = c.va := rfl
@[simp] theorem Ctx.holdWaiting_vb : (c.holdWaiting).vb = c.vb := rfl
@[simp] theorem Ctx.holdWaiting_p : (c.holdWaiting).p = c.p := rfl
@[simp] theorem Ctx.holdWaiting_f : (c.holdWaiting).f = c.f := rfl
@[simp] theorem Ctx.holdWaiting_b : (c.holdWaiting).b = c.b := rfl
@[simp] theorem Ctx.holdWaiting_ft : (c.holdWaiting).ft = c.ft := rfl
@[simp] theorem Ctx.holdWaiting_ma : (c.holdWaiting).ma = c.ma := rfl
@[simp] theorem Ctx.holdWaiting_ch : (c.holdWaiting).ch = c.ch := rfl
@[simp] theorem Ctx.holdWaiting_mcfg : (c.holdWaiting).mcfg = c.mcfg := rfl
@[simp] theorem Ctx.holdWaiting_tabA : (c.holdWaiting).tabA = c.tabA := rfl
@[simp] theorem Ctx.holdWaiting_tabB : (c.holdWaiting).tabB = c.tabB := rfl
@[simp] theorem Ctx.holdWaiting_mode : (c.holdWaiting).mode = c.mode := rfl
@[simp] theorem Ctx.holdWaiting_events : (c.holdWaiting).events = c.events := rfl
@[simp] theorem Ctx.holdWaiting_evmask : (c.holdWaiting).evmask = c.evmask := rfl
@[simp] theorem Ctx.holdWaiting_fault : (c.holdWaiting).fault = c.fault := rfl
@[simp] theorem Ctx.holdWaiting_srkey : (c.holdWaiting).srkey = c.srkey := rfl
@[simp] theorem Ctx.holdWaiting_clock : (c.holdWaiting).clock = c.clock := rfl
@[simp] theorem Ctx.holdWaiting_replays : (c.holdWaiting).replays = c.replays := rfl
@[simp] theorem Ctx.holdWaiting_grant : (c.holdWaiting).grant = c.grant := rfl
@[simp] theorem Ctx.holdWaiting_lm : (c.holdWaiting).lm = c.lm := rfl
@[simp] theorem Ctx.holdWaiting_ts : (c.holdWaiting).ts = c.ts := rfl
@[simp] theorem Ctx.holdWaiting_as : (c.holdWaiting).as = c.as := rfl
@[simp] theorem Ctx.holdWaiting_istore : (c.holdWaiting).istore = c.istore := rfl
@[simp] theorem Ctx.holdWaiting_sems : (c.holdWaiting).sems = c.sems := rfl
@[simp] theorem Ctx.holdWaiting_poisonLm : (c.holdWaiting).poisonLm = c.poisonLm := rfl
@[simp] theorem Ctx.holdWaiting_poisonTs : (c.holdWaiting).poisonTs = c.poisonTs := rfl
@[simp] theorem Ctx.holdWaiting_poisonAs : (c.holdWaiting).poisonAs = c.poisonAs := rfl
@[simp] theorem Ctx.holdWaiting_poisonSem : (c.holdWaiting).poisonSem = c.poisonSem := rfl
@[simp] theorem Ctx.holdWaiting_poisonIs : (c.holdWaiting).poisonIs = c.poisonIs := rfl
@[simp] theorem Ctx.holdWaiting_issued : (c.holdWaiting).issued = c.issued := rfl
@[simp] theorem Ctx.holdWaiting_inflight : (c.holdWaiting).inflight = c.inflight := rfl
@[simp] theorem Ctx.holdWaiting_trapPc : (c.holdWaiting).trapPc = c.trapPc := rfl
@[simp] theorem Ctx.holdWaiting_tretVal : (c.holdWaiting).tretVal = c.tretVal := rfl
@[simp] theorem Ctx.holdWaiting_sys : (c.holdWaiting).sys = c.sys := rfl
@[simp] theorem Ctx.holdWaiting_mq : (c.holdWaiting).mq = c.mq := rfl
@[simp] theorem Ctx.holdWaiting_mmagStep : (c.holdWaiting).mmagStep = c.mmagStep := rfl
@[simp] theorem Ctx.holdWaiting_mmagOut : (c.holdWaiting).mmagOut = c.mmagOut := rfl
@[simp] theorem Ctx.holdWaiting_mmagIn : (c.holdWaiting).mmagIn = c.mmagIn := rfl
@[simp] theorem Ctx.holdWaiting_ops : (c.holdWaiting).ops = c.ops := rfl
@[simp] theorem Ctx.holdWaiting_rels : (c.holdWaiting).rels = c.rels := rfl
@[simp] theorem Ctx.holdWaiting_latom : (c.holdWaiting).latom = c.latom := rfl
@[simp] theorem Ctx.holdWaiting_failed : (c.holdWaiting).failed = c.failed := rfl
@[simp] theorem Ctx.holdWaiting_fatal : (c.holdWaiting).fatal = c.fatal := rfl
@[simp] theorem Ctx.holdWaiting_trapCode : (c.holdWaiting).trapCode = c.trapCode := rfl
@[simp] theorem Ctx.holdWaiting_yielded : (c.holdWaiting).yielded = c.yielded := rfl

/-! Ctx.setWcut changes fault only. -/

@[simp] theorem Ctx.setWcut_key (b : Bool) : (c.setWcut b).key = c.key := rfl
@[simp] theorem Ctx.setWcut_site (b : Bool) : (c.setWcut b).site = c.site := rfl
@[simp] theorem Ctx.setWcut_status (b : Bool) : (c.setWcut b).status = c.status := rfl
@[simp] theorem Ctx.setWcut_info (b : Bool) : (c.setWcut b).info = c.info := rfl
@[simp] theorem Ctx.setWcut_part (b : Bool) : (c.setWcut b).part = c.part := rfl
@[simp] theorem Ctx.setWcut_pc (b : Bool) : (c.setWcut b).pc = c.pc := rfl
@[simp] theorem Ctx.setWcut_xfer (b : Bool) : (c.setWcut b).xfer = c.xfer := rfl
@[simp] theorem Ctx.setWcut_aside (b : Bool) : (c.setWcut b).aside = c.aside := rfl
@[simp] theorem Ctx.setWcut_loops (b : Bool) : (c.setWcut b).loops = c.loops := rfl
@[simp] theorem Ctx.setWcut_repm (b : Bool) : (c.setWcut b).repm = c.repm := rfl
@[simp] theorem Ctx.setWcut_s (b : Bool) : (c.setWcut b).s = c.s := rfl
@[simp] theorem Ctx.setWcut_a (b : Bool) : (c.setWcut b).a = c.a := rfl
@[simp] theorem Ctx.setWcut_va (b : Bool) : (c.setWcut b).va = c.va := rfl
@[simp] theorem Ctx.setWcut_vb (b : Bool) : (c.setWcut b).vb = c.vb := rfl
@[simp] theorem Ctx.setWcut_p (b : Bool) : (c.setWcut b).p = c.p := rfl
@[simp] theorem Ctx.setWcut_f (b : Bool) : (c.setWcut b).f = c.f := rfl
@[simp] theorem Ctx.setWcut_b (b : Bool) : (c.setWcut b).b = c.b := rfl
@[simp] theorem Ctx.setWcut_ft (b : Bool) : (c.setWcut b).ft = c.ft := rfl
@[simp] theorem Ctx.setWcut_ma (b : Bool) : (c.setWcut b).ma = c.ma := rfl
@[simp] theorem Ctx.setWcut_ch (b : Bool) : (c.setWcut b).ch = c.ch := rfl
@[simp] theorem Ctx.setWcut_mcfg (b : Bool) : (c.setWcut b).mcfg = c.mcfg := rfl
@[simp] theorem Ctx.setWcut_tabA (b : Bool) : (c.setWcut b).tabA = c.tabA := rfl
@[simp] theorem Ctx.setWcut_tabB (b : Bool) : (c.setWcut b).tabB = c.tabB := rfl
@[simp] theorem Ctx.setWcut_mode (b : Bool) : (c.setWcut b).mode = c.mode := rfl
@[simp] theorem Ctx.setWcut_events (b : Bool) : (c.setWcut b).events = c.events := rfl
@[simp] theorem Ctx.setWcut_evmask (b : Bool) : (c.setWcut b).evmask = c.evmask := rfl
@[simp] theorem Ctx.setWcut_srkey (b : Bool) : (c.setWcut b).srkey = c.srkey := rfl
@[simp] theorem Ctx.setWcut_clock (b : Bool) : (c.setWcut b).clock = c.clock := rfl
@[simp] theorem Ctx.setWcut_replays (b : Bool) : (c.setWcut b).replays = c.replays := rfl
@[simp] theorem Ctx.setWcut_grant (b : Bool) : (c.setWcut b).grant = c.grant := rfl
@[simp] theorem Ctx.setWcut_lm (b : Bool) : (c.setWcut b).lm = c.lm := rfl
@[simp] theorem Ctx.setWcut_ts (b : Bool) : (c.setWcut b).ts = c.ts := rfl
@[simp] theorem Ctx.setWcut_as (b : Bool) : (c.setWcut b).as = c.as := rfl
@[simp] theorem Ctx.setWcut_istore (b : Bool) : (c.setWcut b).istore = c.istore := rfl
@[simp] theorem Ctx.setWcut_sems (b : Bool) : (c.setWcut b).sems = c.sems := rfl
@[simp] theorem Ctx.setWcut_poisonLm (b : Bool) : (c.setWcut b).poisonLm = c.poisonLm := rfl
@[simp] theorem Ctx.setWcut_poisonTs (b : Bool) : (c.setWcut b).poisonTs = c.poisonTs := rfl
@[simp] theorem Ctx.setWcut_poisonAs (b : Bool) : (c.setWcut b).poisonAs = c.poisonAs := rfl
@[simp] theorem Ctx.setWcut_poisonSem (b : Bool) : (c.setWcut b).poisonSem = c.poisonSem := rfl
@[simp] theorem Ctx.setWcut_poisonIs (b : Bool) : (c.setWcut b).poisonIs = c.poisonIs := rfl
@[simp] theorem Ctx.setWcut_issued (b : Bool) : (c.setWcut b).issued = c.issued := rfl
@[simp] theorem Ctx.setWcut_inflight (b : Bool) : (c.setWcut b).inflight = c.inflight := rfl
@[simp] theorem Ctx.setWcut_issue (b : Bool) : (c.setWcut b).issue = c.issue := rfl
@[simp] theorem Ctx.setWcut_trapPc (b : Bool) : (c.setWcut b).trapPc = c.trapPc := rfl
@[simp] theorem Ctx.setWcut_tretVal (b : Bool) : (c.setWcut b).tretVal = c.tretVal := rfl
@[simp] theorem Ctx.setWcut_sys (b : Bool) : (c.setWcut b).sys = c.sys := rfl
@[simp] theorem Ctx.setWcut_mq (b : Bool) : (c.setWcut b).mq = c.mq := rfl
@[simp] theorem Ctx.setWcut_mmagStep (b : Bool) : (c.setWcut b).mmagStep = c.mmagStep := rfl
@[simp] theorem Ctx.setWcut_mmagOut (b : Bool) : (c.setWcut b).mmagOut = c.mmagOut := rfl
@[simp] theorem Ctx.setWcut_mmagIn (b : Bool) : (c.setWcut b).mmagIn = c.mmagIn := rfl
@[simp] theorem Ctx.setWcut_ops (b : Bool) : (c.setWcut b).ops = c.ops := rfl
@[simp] theorem Ctx.setWcut_rels (b : Bool) : (c.setWcut b).rels = c.rels := rfl
@[simp] theorem Ctx.setWcut_latom (b : Bool) : (c.setWcut b).latom = c.latom := rfl
@[simp] theorem Ctx.setWcut_failed (b : Bool) : (c.setWcut b).failed = c.failed := rfl
@[simp] theorem Ctx.setWcut_fatal (b : Bool) : (c.setWcut b).fatal = c.fatal := rfl
@[simp] theorem Ctx.setWcut_trapCode (b : Bool) : (c.setWcut b).trapCode = c.trapCode := rfl
@[simp] theorem Ctx.setWcut_yielded (b : Bool) : (c.setWcut b).yielded = c.yielded := rfl

/-! Ctx.report changes fault only. -/

@[simp] theorem Ctx.report_key (r : Report) : (c.report r).key = c.key := rfl
@[simp] theorem Ctx.report_site (r : Report) : (c.report r).site = c.site := rfl
@[simp] theorem Ctx.report_status (r : Report) : (c.report r).status = c.status := rfl
@[simp] theorem Ctx.report_info (r : Report) : (c.report r).info = c.info := rfl
@[simp] theorem Ctx.report_part (r : Report) : (c.report r).part = c.part := rfl
@[simp] theorem Ctx.report_pc (r : Report) : (c.report r).pc = c.pc := rfl
@[simp] theorem Ctx.report_xfer (r : Report) : (c.report r).xfer = c.xfer := rfl
@[simp] theorem Ctx.report_aside (r : Report) : (c.report r).aside = c.aside := rfl
@[simp] theorem Ctx.report_loops (r : Report) : (c.report r).loops = c.loops := rfl
@[simp] theorem Ctx.report_repm (r : Report) : (c.report r).repm = c.repm := rfl
@[simp] theorem Ctx.report_s (r : Report) : (c.report r).s = c.s := rfl
@[simp] theorem Ctx.report_a (r : Report) : (c.report r).a = c.a := rfl
@[simp] theorem Ctx.report_va (r : Report) : (c.report r).va = c.va := rfl
@[simp] theorem Ctx.report_vb (r : Report) : (c.report r).vb = c.vb := rfl
@[simp] theorem Ctx.report_p (r : Report) : (c.report r).p = c.p := rfl
@[simp] theorem Ctx.report_f (r : Report) : (c.report r).f = c.f := rfl
@[simp] theorem Ctx.report_b (r : Report) : (c.report r).b = c.b := rfl
@[simp] theorem Ctx.report_ft (r : Report) : (c.report r).ft = c.ft := rfl
@[simp] theorem Ctx.report_ma (r : Report) : (c.report r).ma = c.ma := rfl
@[simp] theorem Ctx.report_ch (r : Report) : (c.report r).ch = c.ch := rfl
@[simp] theorem Ctx.report_mcfg (r : Report) : (c.report r).mcfg = c.mcfg := rfl
@[simp] theorem Ctx.report_tabA (r : Report) : (c.report r).tabA = c.tabA := rfl
@[simp] theorem Ctx.report_tabB (r : Report) : (c.report r).tabB = c.tabB := rfl
@[simp] theorem Ctx.report_mode (r : Report) : (c.report r).mode = c.mode := rfl
@[simp] theorem Ctx.report_events (r : Report) : (c.report r).events = c.events := rfl
@[simp] theorem Ctx.report_evmask (r : Report) : (c.report r).evmask = c.evmask := rfl
@[simp] theorem Ctx.report_srkey (r : Report) : (c.report r).srkey = c.srkey := rfl
@[simp] theorem Ctx.report_clock (r : Report) : (c.report r).clock = c.clock := rfl
@[simp] theorem Ctx.report_replays (r : Report) : (c.report r).replays = c.replays := rfl
@[simp] theorem Ctx.report_grant (r : Report) : (c.report r).grant = c.grant := rfl
@[simp] theorem Ctx.report_lm (r : Report) : (c.report r).lm = c.lm := rfl
@[simp] theorem Ctx.report_ts (r : Report) : (c.report r).ts = c.ts := rfl
@[simp] theorem Ctx.report_as (r : Report) : (c.report r).as = c.as := rfl
@[simp] theorem Ctx.report_istore (r : Report) : (c.report r).istore = c.istore := rfl
@[simp] theorem Ctx.report_sems (r : Report) : (c.report r).sems = c.sems := rfl
@[simp] theorem Ctx.report_poisonLm (r : Report) : (c.report r).poisonLm = c.poisonLm := rfl
@[simp] theorem Ctx.report_poisonTs (r : Report) : (c.report r).poisonTs = c.poisonTs := rfl
@[simp] theorem Ctx.report_poisonAs (r : Report) : (c.report r).poisonAs = c.poisonAs := rfl
@[simp] theorem Ctx.report_poisonSem (r : Report) : (c.report r).poisonSem = c.poisonSem := rfl
@[simp] theorem Ctx.report_poisonIs (r : Report) : (c.report r).poisonIs = c.poisonIs := rfl
@[simp] theorem Ctx.report_issued (r : Report) : (c.report r).issued = c.issued := rfl
@[simp] theorem Ctx.report_inflight (r : Report) : (c.report r).inflight = c.inflight := rfl
@[simp] theorem Ctx.report_issue (r : Report) : (c.report r).issue = c.issue := rfl
@[simp] theorem Ctx.report_trapPc (r : Report) : (c.report r).trapPc = c.trapPc := rfl
@[simp] theorem Ctx.report_tretVal (r : Report) : (c.report r).tretVal = c.tretVal := rfl
@[simp] theorem Ctx.report_sys (r : Report) : (c.report r).sys = c.sys := rfl
@[simp] theorem Ctx.report_mq (r : Report) : (c.report r).mq = c.mq := rfl
@[simp] theorem Ctx.report_mmagStep (r : Report) : (c.report r).mmagStep = c.mmagStep := rfl
@[simp] theorem Ctx.report_mmagOut (r : Report) : (c.report r).mmagOut = c.mmagOut := rfl
@[simp] theorem Ctx.report_mmagIn (r : Report) : (c.report r).mmagIn = c.mmagIn := rfl
@[simp] theorem Ctx.report_ops (r : Report) : (c.report r).ops = c.ops := rfl
@[simp] theorem Ctx.report_rels (r : Report) : (c.report r).rels = c.rels := rfl
@[simp] theorem Ctx.report_latom (r : Report) : (c.report r).latom = c.latom := rfl
@[simp] theorem Ctx.report_failed (r : Report) : (c.report r).failed = c.failed := rfl
@[simp] theorem Ctx.report_fatal (r : Report) : (c.report r).fatal = c.fatal := rfl
@[simp] theorem Ctx.report_trapCode (r : Report) : (c.report r).trapCode = c.trapCode := rfl
@[simp] theorem Ctx.report_yielded (r : Report) : (c.report r).yielded = c.yielded := rfl

/-! Ctx.setMa changes ma only. -/

@[simp] theorem Ctx.setMa_key (i : BitVec 4) (v : Word32) : (c.setMa i v).key = c.key := rfl
@[simp] theorem Ctx.setMa_site (i : BitVec 4) (v : Word32) : (c.setMa i v).site = c.site := rfl
@[simp] theorem Ctx.setMa_status (i : BitVec 4) (v : Word32) : (c.setMa i v).status = c.status := rfl
@[simp] theorem Ctx.setMa_info (i : BitVec 4) (v : Word32) : (c.setMa i v).info = c.info := rfl
@[simp] theorem Ctx.setMa_part (i : BitVec 4) (v : Word32) : (c.setMa i v).part = c.part := rfl
@[simp] theorem Ctx.setMa_pc (i : BitVec 4) (v : Word32) : (c.setMa i v).pc = c.pc := rfl
@[simp] theorem Ctx.setMa_xfer (i : BitVec 4) (v : Word32) : (c.setMa i v).xfer = c.xfer := rfl
@[simp] theorem Ctx.setMa_aside (i : BitVec 4) (v : Word32) : (c.setMa i v).aside = c.aside := rfl
@[simp] theorem Ctx.setMa_loops (i : BitVec 4) (v : Word32) : (c.setMa i v).loops = c.loops := rfl
@[simp] theorem Ctx.setMa_repm (i : BitVec 4) (v : Word32) : (c.setMa i v).repm = c.repm := rfl
@[simp] theorem Ctx.setMa_s (i : BitVec 4) (v : Word32) : (c.setMa i v).s = c.s := rfl
@[simp] theorem Ctx.setMa_a (i : BitVec 4) (v : Word32) : (c.setMa i v).a = c.a := rfl
@[simp] theorem Ctx.setMa_va (i : BitVec 4) (v : Word32) : (c.setMa i v).va = c.va := rfl
@[simp] theorem Ctx.setMa_vb (i : BitVec 4) (v : Word32) : (c.setMa i v).vb = c.vb := rfl
@[simp] theorem Ctx.setMa_p (i : BitVec 4) (v : Word32) : (c.setMa i v).p = c.p := rfl
@[simp] theorem Ctx.setMa_f (i : BitVec 4) (v : Word32) : (c.setMa i v).f = c.f := rfl
@[simp] theorem Ctx.setMa_b (i : BitVec 4) (v : Word32) : (c.setMa i v).b = c.b := rfl
@[simp] theorem Ctx.setMa_ft (i : BitVec 4) (v : Word32) : (c.setMa i v).ft = c.ft := rfl
@[simp] theorem Ctx.setMa_ch (i : BitVec 4) (v : Word32) : (c.setMa i v).ch = c.ch := rfl
@[simp] theorem Ctx.setMa_mcfg (i : BitVec 4) (v : Word32) : (c.setMa i v).mcfg = c.mcfg := rfl
@[simp] theorem Ctx.setMa_tabA (i : BitVec 4) (v : Word32) : (c.setMa i v).tabA = c.tabA := rfl
@[simp] theorem Ctx.setMa_tabB (i : BitVec 4) (v : Word32) : (c.setMa i v).tabB = c.tabB := rfl
@[simp] theorem Ctx.setMa_mode (i : BitVec 4) (v : Word32) : (c.setMa i v).mode = c.mode := rfl
@[simp] theorem Ctx.setMa_events (i : BitVec 4) (v : Word32) : (c.setMa i v).events = c.events := rfl
@[simp] theorem Ctx.setMa_evmask (i : BitVec 4) (v : Word32) : (c.setMa i v).evmask = c.evmask := rfl
@[simp] theorem Ctx.setMa_fault (i : BitVec 4) (v : Word32) : (c.setMa i v).fault = c.fault := rfl
@[simp] theorem Ctx.setMa_srkey (i : BitVec 4) (v : Word32) : (c.setMa i v).srkey = c.srkey := rfl
@[simp] theorem Ctx.setMa_clock (i : BitVec 4) (v : Word32) : (c.setMa i v).clock = c.clock := rfl
@[simp] theorem Ctx.setMa_replays (i : BitVec 4) (v : Word32) : (c.setMa i v).replays = c.replays := rfl
@[simp] theorem Ctx.setMa_grant (i : BitVec 4) (v : Word32) : (c.setMa i v).grant = c.grant := rfl
@[simp] theorem Ctx.setMa_lm (i : BitVec 4) (v : Word32) : (c.setMa i v).lm = c.lm := rfl
@[simp] theorem Ctx.setMa_ts (i : BitVec 4) (v : Word32) : (c.setMa i v).ts = c.ts := rfl
@[simp] theorem Ctx.setMa_as (i : BitVec 4) (v : Word32) : (c.setMa i v).as = c.as := rfl
@[simp] theorem Ctx.setMa_istore (i : BitVec 4) (v : Word32) : (c.setMa i v).istore = c.istore := rfl
@[simp] theorem Ctx.setMa_sems (i : BitVec 4) (v : Word32) : (c.setMa i v).sems = c.sems := rfl
@[simp] theorem Ctx.setMa_poisonLm (i : BitVec 4) (v : Word32) : (c.setMa i v).poisonLm = c.poisonLm := rfl
@[simp] theorem Ctx.setMa_poisonTs (i : BitVec 4) (v : Word32) : (c.setMa i v).poisonTs = c.poisonTs := rfl
@[simp] theorem Ctx.setMa_poisonAs (i : BitVec 4) (v : Word32) : (c.setMa i v).poisonAs = c.poisonAs := rfl
@[simp] theorem Ctx.setMa_poisonSem (i : BitVec 4) (v : Word32) : (c.setMa i v).poisonSem = c.poisonSem := rfl
@[simp] theorem Ctx.setMa_poisonIs (i : BitVec 4) (v : Word32) : (c.setMa i v).poisonIs = c.poisonIs := rfl
@[simp] theorem Ctx.setMa_issued (i : BitVec 4) (v : Word32) : (c.setMa i v).issued = c.issued := rfl
@[simp] theorem Ctx.setMa_inflight (i : BitVec 4) (v : Word32) : (c.setMa i v).inflight = c.inflight := rfl
@[simp] theorem Ctx.setMa_issue (i : BitVec 4) (v : Word32) : (c.setMa i v).issue = c.issue := rfl
@[simp] theorem Ctx.setMa_trapPc (i : BitVec 4) (v : Word32) : (c.setMa i v).trapPc = c.trapPc := rfl
@[simp] theorem Ctx.setMa_tretVal (i : BitVec 4) (v : Word32) : (c.setMa i v).tretVal = c.tretVal := rfl
@[simp] theorem Ctx.setMa_sys (i : BitVec 4) (v : Word32) : (c.setMa i v).sys = c.sys := rfl
@[simp] theorem Ctx.setMa_mq (i : BitVec 4) (v : Word32) : (c.setMa i v).mq = c.mq := rfl
@[simp] theorem Ctx.setMa_mmagStep (i : BitVec 4) (v : Word32) : (c.setMa i v).mmagStep = c.mmagStep := rfl
@[simp] theorem Ctx.setMa_mmagOut (i : BitVec 4) (v : Word32) : (c.setMa i v).mmagOut = c.mmagOut := rfl
@[simp] theorem Ctx.setMa_mmagIn (i : BitVec 4) (v : Word32) : (c.setMa i v).mmagIn = c.mmagIn := rfl
@[simp] theorem Ctx.setMa_ops (i : BitVec 4) (v : Word32) : (c.setMa i v).ops = c.ops := rfl
@[simp] theorem Ctx.setMa_rels (i : BitVec 4) (v : Word32) : (c.setMa i v).rels = c.rels := rfl
@[simp] theorem Ctx.setMa_latom (i : BitVec 4) (v : Word32) : (c.setMa i v).latom = c.latom := rfl
@[simp] theorem Ctx.setMa_failed (i : BitVec 4) (v : Word32) : (c.setMa i v).failed = c.failed := rfl
@[simp] theorem Ctx.setMa_fatal (i : BitVec 4) (v : Word32) : (c.setMa i v).fatal = c.fatal := rfl
@[simp] theorem Ctx.setMa_trapCode (i : BitVec 4) (v : Word32) : (c.setMa i v).trapCode = c.trapCode := rfl
@[simp] theorem Ctx.setMa_yielded (i : BitVec 4) (v : Word32) : (c.setMa i v).yielded = c.yielded := rfl

/-! Ctx.setCh changes ch only. -/

@[simp] theorem Ctx.setCh_key (i : BitVec 3) (x : Chain) : (c.setCh i x).key = c.key := rfl
@[simp] theorem Ctx.setCh_site (i : BitVec 3) (x : Chain) : (c.setCh i x).site = c.site := rfl
@[simp] theorem Ctx.setCh_status (i : BitVec 3) (x : Chain) : (c.setCh i x).status = c.status := rfl
@[simp] theorem Ctx.setCh_info (i : BitVec 3) (x : Chain) : (c.setCh i x).info = c.info := rfl
@[simp] theorem Ctx.setCh_part (i : BitVec 3) (x : Chain) : (c.setCh i x).part = c.part := rfl
@[simp] theorem Ctx.setCh_pc (i : BitVec 3) (x : Chain) : (c.setCh i x).pc = c.pc := rfl
@[simp] theorem Ctx.setCh_xfer (i : BitVec 3) (x : Chain) : (c.setCh i x).xfer = c.xfer := rfl
@[simp] theorem Ctx.setCh_aside (i : BitVec 3) (x : Chain) : (c.setCh i x).aside = c.aside := rfl
@[simp] theorem Ctx.setCh_loops (i : BitVec 3) (x : Chain) : (c.setCh i x).loops = c.loops := rfl
@[simp] theorem Ctx.setCh_repm (i : BitVec 3) (x : Chain) : (c.setCh i x).repm = c.repm := rfl
@[simp] theorem Ctx.setCh_s (i : BitVec 3) (x : Chain) : (c.setCh i x).s = c.s := rfl
@[simp] theorem Ctx.setCh_a (i : BitVec 3) (x : Chain) : (c.setCh i x).a = c.a := rfl
@[simp] theorem Ctx.setCh_va (i : BitVec 3) (x : Chain) : (c.setCh i x).va = c.va := rfl
@[simp] theorem Ctx.setCh_vb (i : BitVec 3) (x : Chain) : (c.setCh i x).vb = c.vb := rfl
@[simp] theorem Ctx.setCh_p (i : BitVec 3) (x : Chain) : (c.setCh i x).p = c.p := rfl
@[simp] theorem Ctx.setCh_f (i : BitVec 3) (x : Chain) : (c.setCh i x).f = c.f := rfl
@[simp] theorem Ctx.setCh_b (i : BitVec 3) (x : Chain) : (c.setCh i x).b = c.b := rfl
@[simp] theorem Ctx.setCh_ft (i : BitVec 3) (x : Chain) : (c.setCh i x).ft = c.ft := rfl
@[simp] theorem Ctx.setCh_ma (i : BitVec 3) (x : Chain) : (c.setCh i x).ma = c.ma := rfl
@[simp] theorem Ctx.setCh_mcfg (i : BitVec 3) (x : Chain) : (c.setCh i x).mcfg = c.mcfg := rfl
@[simp] theorem Ctx.setCh_tabA (i : BitVec 3) (x : Chain) : (c.setCh i x).tabA = c.tabA := rfl
@[simp] theorem Ctx.setCh_tabB (i : BitVec 3) (x : Chain) : (c.setCh i x).tabB = c.tabB := rfl
@[simp] theorem Ctx.setCh_mode (i : BitVec 3) (x : Chain) : (c.setCh i x).mode = c.mode := rfl
@[simp] theorem Ctx.setCh_events (i : BitVec 3) (x : Chain) : (c.setCh i x).events = c.events := rfl
@[simp] theorem Ctx.setCh_evmask (i : BitVec 3) (x : Chain) : (c.setCh i x).evmask = c.evmask := rfl
@[simp] theorem Ctx.setCh_fault (i : BitVec 3) (x : Chain) : (c.setCh i x).fault = c.fault := rfl
@[simp] theorem Ctx.setCh_srkey (i : BitVec 3) (x : Chain) : (c.setCh i x).srkey = c.srkey := rfl
@[simp] theorem Ctx.setCh_clock (i : BitVec 3) (x : Chain) : (c.setCh i x).clock = c.clock := rfl
@[simp] theorem Ctx.setCh_replays (i : BitVec 3) (x : Chain) : (c.setCh i x).replays = c.replays := rfl
@[simp] theorem Ctx.setCh_grant (i : BitVec 3) (x : Chain) : (c.setCh i x).grant = c.grant := rfl
@[simp] theorem Ctx.setCh_lm (i : BitVec 3) (x : Chain) : (c.setCh i x).lm = c.lm := rfl
@[simp] theorem Ctx.setCh_ts (i : BitVec 3) (x : Chain) : (c.setCh i x).ts = c.ts := rfl
@[simp] theorem Ctx.setCh_as (i : BitVec 3) (x : Chain) : (c.setCh i x).as = c.as := rfl
@[simp] theorem Ctx.setCh_istore (i : BitVec 3) (x : Chain) : (c.setCh i x).istore = c.istore := rfl
@[simp] theorem Ctx.setCh_sems (i : BitVec 3) (x : Chain) : (c.setCh i x).sems = c.sems := rfl
@[simp] theorem Ctx.setCh_poisonLm (i : BitVec 3) (x : Chain) : (c.setCh i x).poisonLm = c.poisonLm := rfl
@[simp] theorem Ctx.setCh_poisonTs (i : BitVec 3) (x : Chain) : (c.setCh i x).poisonTs = c.poisonTs := rfl
@[simp] theorem Ctx.setCh_poisonAs (i : BitVec 3) (x : Chain) : (c.setCh i x).poisonAs = c.poisonAs := rfl
@[simp] theorem Ctx.setCh_poisonSem (i : BitVec 3) (x : Chain) : (c.setCh i x).poisonSem = c.poisonSem := rfl
@[simp] theorem Ctx.setCh_poisonIs (i : BitVec 3) (x : Chain) : (c.setCh i x).poisonIs = c.poisonIs := rfl
@[simp] theorem Ctx.setCh_issued (i : BitVec 3) (x : Chain) : (c.setCh i x).issued = c.issued := rfl
@[simp] theorem Ctx.setCh_inflight (i : BitVec 3) (x : Chain) : (c.setCh i x).inflight = c.inflight := rfl
@[simp] theorem Ctx.setCh_issue (i : BitVec 3) (x : Chain) : (c.setCh i x).issue = c.issue := rfl
@[simp] theorem Ctx.setCh_trapPc (i : BitVec 3) (x : Chain) : (c.setCh i x).trapPc = c.trapPc := rfl
@[simp] theorem Ctx.setCh_tretVal (i : BitVec 3) (x : Chain) : (c.setCh i x).tretVal = c.tretVal := rfl
@[simp] theorem Ctx.setCh_sys (i : BitVec 3) (x : Chain) : (c.setCh i x).sys = c.sys := rfl
@[simp] theorem Ctx.setCh_mq (i : BitVec 3) (x : Chain) : (c.setCh i x).mq = c.mq := rfl
@[simp] theorem Ctx.setCh_mmagStep (i : BitVec 3) (x : Chain) : (c.setCh i x).mmagStep = c.mmagStep := rfl
@[simp] theorem Ctx.setCh_mmagOut (i : BitVec 3) (x : Chain) : (c.setCh i x).mmagOut = c.mmagOut := rfl
@[simp] theorem Ctx.setCh_mmagIn (i : BitVec 3) (x : Chain) : (c.setCh i x).mmagIn = c.mmagIn := rfl
@[simp] theorem Ctx.setCh_ops (i : BitVec 3) (x : Chain) : (c.setCh i x).ops = c.ops := rfl
@[simp] theorem Ctx.setCh_rels (i : BitVec 3) (x : Chain) : (c.setCh i x).rels = c.rels := rfl
@[simp] theorem Ctx.setCh_latom (i : BitVec 3) (x : Chain) : (c.setCh i x).latom = c.latom := rfl
@[simp] theorem Ctx.setCh_failed (i : BitVec 3) (x : Chain) : (c.setCh i x).failed = c.failed := rfl
@[simp] theorem Ctx.setCh_fatal (i : BitVec 3) (x : Chain) : (c.setCh i x).fatal = c.fatal := rfl
@[simp] theorem Ctx.setCh_trapCode (i : BitVec 3) (x : Chain) : (c.setCh i x).trapCode = c.trapCode := rfl
@[simp] theorem Ctx.setCh_yielded (i : BitVec 3) (x : Chain) : (c.setCh i x).yielded = c.yielded := rfl

/-! Ctx.setFt changes ft only. -/

@[simp] theorem Ctx.setFt_key (i : BitVec 3) (x : Token) : (c.setFt i x).key = c.key := rfl
@[simp] theorem Ctx.setFt_site (i : BitVec 3) (x : Token) : (c.setFt i x).site = c.site := rfl
@[simp] theorem Ctx.setFt_status (i : BitVec 3) (x : Token) : (c.setFt i x).status = c.status := rfl
@[simp] theorem Ctx.setFt_info (i : BitVec 3) (x : Token) : (c.setFt i x).info = c.info := rfl
@[simp] theorem Ctx.setFt_part (i : BitVec 3) (x : Token) : (c.setFt i x).part = c.part := rfl
@[simp] theorem Ctx.setFt_pc (i : BitVec 3) (x : Token) : (c.setFt i x).pc = c.pc := rfl
@[simp] theorem Ctx.setFt_xfer (i : BitVec 3) (x : Token) : (c.setFt i x).xfer = c.xfer := rfl
@[simp] theorem Ctx.setFt_aside (i : BitVec 3) (x : Token) : (c.setFt i x).aside = c.aside := rfl
@[simp] theorem Ctx.setFt_loops (i : BitVec 3) (x : Token) : (c.setFt i x).loops = c.loops := rfl
@[simp] theorem Ctx.setFt_repm (i : BitVec 3) (x : Token) : (c.setFt i x).repm = c.repm := rfl
@[simp] theorem Ctx.setFt_s (i : BitVec 3) (x : Token) : (c.setFt i x).s = c.s := rfl
@[simp] theorem Ctx.setFt_a (i : BitVec 3) (x : Token) : (c.setFt i x).a = c.a := rfl
@[simp] theorem Ctx.setFt_va (i : BitVec 3) (x : Token) : (c.setFt i x).va = c.va := rfl
@[simp] theorem Ctx.setFt_vb (i : BitVec 3) (x : Token) : (c.setFt i x).vb = c.vb := rfl
@[simp] theorem Ctx.setFt_p (i : BitVec 3) (x : Token) : (c.setFt i x).p = c.p := rfl
@[simp] theorem Ctx.setFt_f (i : BitVec 3) (x : Token) : (c.setFt i x).f = c.f := rfl
@[simp] theorem Ctx.setFt_b (i : BitVec 3) (x : Token) : (c.setFt i x).b = c.b := rfl
@[simp] theorem Ctx.setFt_ma (i : BitVec 3) (x : Token) : (c.setFt i x).ma = c.ma := rfl
@[simp] theorem Ctx.setFt_ch (i : BitVec 3) (x : Token) : (c.setFt i x).ch = c.ch := rfl
@[simp] theorem Ctx.setFt_mcfg (i : BitVec 3) (x : Token) : (c.setFt i x).mcfg = c.mcfg := rfl
@[simp] theorem Ctx.setFt_tabA (i : BitVec 3) (x : Token) : (c.setFt i x).tabA = c.tabA := rfl
@[simp] theorem Ctx.setFt_tabB (i : BitVec 3) (x : Token) : (c.setFt i x).tabB = c.tabB := rfl
@[simp] theorem Ctx.setFt_mode (i : BitVec 3) (x : Token) : (c.setFt i x).mode = c.mode := rfl
@[simp] theorem Ctx.setFt_events (i : BitVec 3) (x : Token) : (c.setFt i x).events = c.events := rfl
@[simp] theorem Ctx.setFt_evmask (i : BitVec 3) (x : Token) : (c.setFt i x).evmask = c.evmask := rfl
@[simp] theorem Ctx.setFt_fault (i : BitVec 3) (x : Token) : (c.setFt i x).fault = c.fault := rfl
@[simp] theorem Ctx.setFt_srkey (i : BitVec 3) (x : Token) : (c.setFt i x).srkey = c.srkey := rfl
@[simp] theorem Ctx.setFt_clock (i : BitVec 3) (x : Token) : (c.setFt i x).clock = c.clock := rfl
@[simp] theorem Ctx.setFt_replays (i : BitVec 3) (x : Token) : (c.setFt i x).replays = c.replays := rfl
@[simp] theorem Ctx.setFt_grant (i : BitVec 3) (x : Token) : (c.setFt i x).grant = c.grant := rfl
@[simp] theorem Ctx.setFt_lm (i : BitVec 3) (x : Token) : (c.setFt i x).lm = c.lm := rfl
@[simp] theorem Ctx.setFt_ts (i : BitVec 3) (x : Token) : (c.setFt i x).ts = c.ts := rfl
@[simp] theorem Ctx.setFt_as (i : BitVec 3) (x : Token) : (c.setFt i x).as = c.as := rfl
@[simp] theorem Ctx.setFt_istore (i : BitVec 3) (x : Token) : (c.setFt i x).istore = c.istore := rfl
@[simp] theorem Ctx.setFt_sems (i : BitVec 3) (x : Token) : (c.setFt i x).sems = c.sems := rfl
@[simp] theorem Ctx.setFt_poisonLm (i : BitVec 3) (x : Token) : (c.setFt i x).poisonLm = c.poisonLm := rfl
@[simp] theorem Ctx.setFt_poisonTs (i : BitVec 3) (x : Token) : (c.setFt i x).poisonTs = c.poisonTs := rfl
@[simp] theorem Ctx.setFt_poisonAs (i : BitVec 3) (x : Token) : (c.setFt i x).poisonAs = c.poisonAs := rfl
@[simp] theorem Ctx.setFt_poisonSem (i : BitVec 3) (x : Token) : (c.setFt i x).poisonSem = c.poisonSem := rfl
@[simp] theorem Ctx.setFt_poisonIs (i : BitVec 3) (x : Token) : (c.setFt i x).poisonIs = c.poisonIs := rfl
@[simp] theorem Ctx.setFt_issued (i : BitVec 3) (x : Token) : (c.setFt i x).issued = c.issued := rfl
@[simp] theorem Ctx.setFt_inflight (i : BitVec 3) (x : Token) : (c.setFt i x).inflight = c.inflight := rfl
@[simp] theorem Ctx.setFt_issue (i : BitVec 3) (x : Token) : (c.setFt i x).issue = c.issue := rfl
@[simp] theorem Ctx.setFt_trapPc (i : BitVec 3) (x : Token) : (c.setFt i x).trapPc = c.trapPc := rfl
@[simp] theorem Ctx.setFt_tretVal (i : BitVec 3) (x : Token) : (c.setFt i x).tretVal = c.tretVal := rfl
@[simp] theorem Ctx.setFt_sys (i : BitVec 3) (x : Token) : (c.setFt i x).sys = c.sys := rfl
@[simp] theorem Ctx.setFt_mq (i : BitVec 3) (x : Token) : (c.setFt i x).mq = c.mq := rfl
@[simp] theorem Ctx.setFt_mmagStep (i : BitVec 3) (x : Token) : (c.setFt i x).mmagStep = c.mmagStep := rfl
@[simp] theorem Ctx.setFt_mmagOut (i : BitVec 3) (x : Token) : (c.setFt i x).mmagOut = c.mmagOut := rfl
@[simp] theorem Ctx.setFt_mmagIn (i : BitVec 3) (x : Token) : (c.setFt i x).mmagIn = c.mmagIn := rfl
@[simp] theorem Ctx.setFt_ops (i : BitVec 3) (x : Token) : (c.setFt i x).ops = c.ops := rfl
@[simp] theorem Ctx.setFt_rels (i : BitVec 3) (x : Token) : (c.setFt i x).rels = c.rels := rfl
@[simp] theorem Ctx.setFt_latom (i : BitVec 3) (x : Token) : (c.setFt i x).latom = c.latom := rfl
@[simp] theorem Ctx.setFt_failed (i : BitVec 3) (x : Token) : (c.setFt i x).failed = c.failed := rfl
@[simp] theorem Ctx.setFt_fatal (i : BitVec 3) (x : Token) : (c.setFt i x).fatal = c.fatal := rfl
@[simp] theorem Ctx.setFt_trapCode (i : BitVec 3) (x : Token) : (c.setFt i x).trapCode = c.trapCode := rfl
@[simp] theorem Ctx.setFt_yielded (i : BitVec 3) (x : Token) : (c.setFt i x).yielded = c.yielded := rfl

/-! Ctx.semAdd changes sems only. -/

@[simp] theorem Ctx.semAdd_key (i : Nat) (k : Word32) : (c.semAdd i k).key = c.key := rfl
@[simp] theorem Ctx.semAdd_site (i : Nat) (k : Word32) : (c.semAdd i k).site = c.site := rfl
@[simp] theorem Ctx.semAdd_status (i : Nat) (k : Word32) : (c.semAdd i k).status = c.status := rfl
@[simp] theorem Ctx.semAdd_info (i : Nat) (k : Word32) : (c.semAdd i k).info = c.info := rfl
@[simp] theorem Ctx.semAdd_part (i : Nat) (k : Word32) : (c.semAdd i k).part = c.part := rfl
@[simp] theorem Ctx.semAdd_pc (i : Nat) (k : Word32) : (c.semAdd i k).pc = c.pc := rfl
@[simp] theorem Ctx.semAdd_xfer (i : Nat) (k : Word32) : (c.semAdd i k).xfer = c.xfer := rfl
@[simp] theorem Ctx.semAdd_aside (i : Nat) (k : Word32) : (c.semAdd i k).aside = c.aside := rfl
@[simp] theorem Ctx.semAdd_loops (i : Nat) (k : Word32) : (c.semAdd i k).loops = c.loops := rfl
@[simp] theorem Ctx.semAdd_repm (i : Nat) (k : Word32) : (c.semAdd i k).repm = c.repm := rfl
@[simp] theorem Ctx.semAdd_s (i : Nat) (k : Word32) : (c.semAdd i k).s = c.s := rfl
@[simp] theorem Ctx.semAdd_a (i : Nat) (k : Word32) : (c.semAdd i k).a = c.a := rfl
@[simp] theorem Ctx.semAdd_va (i : Nat) (k : Word32) : (c.semAdd i k).va = c.va := rfl
@[simp] theorem Ctx.semAdd_vb (i : Nat) (k : Word32) : (c.semAdd i k).vb = c.vb := rfl
@[simp] theorem Ctx.semAdd_p (i : Nat) (k : Word32) : (c.semAdd i k).p = c.p := rfl
@[simp] theorem Ctx.semAdd_f (i : Nat) (k : Word32) : (c.semAdd i k).f = c.f := rfl
@[simp] theorem Ctx.semAdd_b (i : Nat) (k : Word32) : (c.semAdd i k).b = c.b := rfl
@[simp] theorem Ctx.semAdd_ft (i : Nat) (k : Word32) : (c.semAdd i k).ft = c.ft := rfl
@[simp] theorem Ctx.semAdd_ma (i : Nat) (k : Word32) : (c.semAdd i k).ma = c.ma := rfl
@[simp] theorem Ctx.semAdd_ch (i : Nat) (k : Word32) : (c.semAdd i k).ch = c.ch := rfl
@[simp] theorem Ctx.semAdd_mcfg (i : Nat) (k : Word32) : (c.semAdd i k).mcfg = c.mcfg := rfl
@[simp] theorem Ctx.semAdd_tabA (i : Nat) (k : Word32) : (c.semAdd i k).tabA = c.tabA := rfl
@[simp] theorem Ctx.semAdd_tabB (i : Nat) (k : Word32) : (c.semAdd i k).tabB = c.tabB := rfl
@[simp] theorem Ctx.semAdd_mode (i : Nat) (k : Word32) : (c.semAdd i k).mode = c.mode := rfl
@[simp] theorem Ctx.semAdd_events (i : Nat) (k : Word32) : (c.semAdd i k).events = c.events := rfl
@[simp] theorem Ctx.semAdd_evmask (i : Nat) (k : Word32) : (c.semAdd i k).evmask = c.evmask := rfl
@[simp] theorem Ctx.semAdd_fault (i : Nat) (k : Word32) : (c.semAdd i k).fault = c.fault := rfl
@[simp] theorem Ctx.semAdd_srkey (i : Nat) (k : Word32) : (c.semAdd i k).srkey = c.srkey := rfl
@[simp] theorem Ctx.semAdd_clock (i : Nat) (k : Word32) : (c.semAdd i k).clock = c.clock := rfl
@[simp] theorem Ctx.semAdd_replays (i : Nat) (k : Word32) : (c.semAdd i k).replays = c.replays := rfl
@[simp] theorem Ctx.semAdd_grant (i : Nat) (k : Word32) : (c.semAdd i k).grant = c.grant := rfl
@[simp] theorem Ctx.semAdd_lm (i : Nat) (k : Word32) : (c.semAdd i k).lm = c.lm := rfl
@[simp] theorem Ctx.semAdd_ts (i : Nat) (k : Word32) : (c.semAdd i k).ts = c.ts := rfl
@[simp] theorem Ctx.semAdd_as (i : Nat) (k : Word32) : (c.semAdd i k).as = c.as := rfl
@[simp] theorem Ctx.semAdd_istore (i : Nat) (k : Word32) : (c.semAdd i k).istore = c.istore := rfl
@[simp] theorem Ctx.semAdd_poisonLm (i : Nat) (k : Word32) : (c.semAdd i k).poisonLm = c.poisonLm := rfl
@[simp] theorem Ctx.semAdd_poisonTs (i : Nat) (k : Word32) : (c.semAdd i k).poisonTs = c.poisonTs := rfl
@[simp] theorem Ctx.semAdd_poisonAs (i : Nat) (k : Word32) : (c.semAdd i k).poisonAs = c.poisonAs := rfl
@[simp] theorem Ctx.semAdd_poisonSem (i : Nat) (k : Word32) : (c.semAdd i k).poisonSem = c.poisonSem := rfl
@[simp] theorem Ctx.semAdd_poisonIs (i : Nat) (k : Word32) : (c.semAdd i k).poisonIs = c.poisonIs := rfl
@[simp] theorem Ctx.semAdd_issued (i : Nat) (k : Word32) : (c.semAdd i k).issued = c.issued := rfl
@[simp] theorem Ctx.semAdd_inflight (i : Nat) (k : Word32) : (c.semAdd i k).inflight = c.inflight := rfl
@[simp] theorem Ctx.semAdd_issue (i : Nat) (k : Word32) : (c.semAdd i k).issue = c.issue := rfl
@[simp] theorem Ctx.semAdd_trapPc (i : Nat) (k : Word32) : (c.semAdd i k).trapPc = c.trapPc := rfl
@[simp] theorem Ctx.semAdd_tretVal (i : Nat) (k : Word32) : (c.semAdd i k).tretVal = c.tretVal := rfl
@[simp] theorem Ctx.semAdd_sys (i : Nat) (k : Word32) : (c.semAdd i k).sys = c.sys := rfl
@[simp] theorem Ctx.semAdd_mq (i : Nat) (k : Word32) : (c.semAdd i k).mq = c.mq := rfl
@[simp] theorem Ctx.semAdd_mmagStep (i : Nat) (k : Word32) : (c.semAdd i k).mmagStep = c.mmagStep := rfl
@[simp] theorem Ctx.semAdd_mmagOut (i : Nat) (k : Word32) : (c.semAdd i k).mmagOut = c.mmagOut := rfl
@[simp] theorem Ctx.semAdd_mmagIn (i : Nat) (k : Word32) : (c.semAdd i k).mmagIn = c.mmagIn := rfl
@[simp] theorem Ctx.semAdd_ops (i : Nat) (k : Word32) : (c.semAdd i k).ops = c.ops := rfl
@[simp] theorem Ctx.semAdd_rels (i : Nat) (k : Word32) : (c.semAdd i k).rels = c.rels := rfl
@[simp] theorem Ctx.semAdd_latom (i : Nat) (k : Word32) : (c.semAdd i k).latom = c.latom := rfl
@[simp] theorem Ctx.semAdd_failed (i : Nat) (k : Word32) : (c.semAdd i k).failed = c.failed := rfl
@[simp] theorem Ctx.semAdd_fatal (i : Nat) (k : Word32) : (c.semAdd i k).fatal = c.fatal := rfl
@[simp] theorem Ctx.semAdd_trapCode (i : Nat) (k : Word32) : (c.semAdd i k).trapCode = c.trapCode := rfl
@[simp] theorem Ctx.semAdd_yielded (i : Nat) (k : Word32) : (c.semAdd i k).yielded = c.yielded := rfl

/-! Ctx.semSet changes sems only. -/

@[simp] theorem Ctx.semSet_key (i : Nat) (v : Word32) : (c.semSet i v).key = c.key := rfl
@[simp] theorem Ctx.semSet_site (i : Nat) (v : Word32) : (c.semSet i v).site = c.site := rfl
@[simp] theorem Ctx.semSet_status (i : Nat) (v : Word32) : (c.semSet i v).status = c.status := rfl
@[simp] theorem Ctx.semSet_info (i : Nat) (v : Word32) : (c.semSet i v).info = c.info := rfl
@[simp] theorem Ctx.semSet_part (i : Nat) (v : Word32) : (c.semSet i v).part = c.part := rfl
@[simp] theorem Ctx.semSet_pc (i : Nat) (v : Word32) : (c.semSet i v).pc = c.pc := rfl
@[simp] theorem Ctx.semSet_xfer (i : Nat) (v : Word32) : (c.semSet i v).xfer = c.xfer := rfl
@[simp] theorem Ctx.semSet_aside (i : Nat) (v : Word32) : (c.semSet i v).aside = c.aside := rfl
@[simp] theorem Ctx.semSet_loops (i : Nat) (v : Word32) : (c.semSet i v).loops = c.loops := rfl
@[simp] theorem Ctx.semSet_repm (i : Nat) (v : Word32) : (c.semSet i v).repm = c.repm := rfl
@[simp] theorem Ctx.semSet_s (i : Nat) (v : Word32) : (c.semSet i v).s = c.s := rfl
@[simp] theorem Ctx.semSet_a (i : Nat) (v : Word32) : (c.semSet i v).a = c.a := rfl
@[simp] theorem Ctx.semSet_va (i : Nat) (v : Word32) : (c.semSet i v).va = c.va := rfl
@[simp] theorem Ctx.semSet_vb (i : Nat) (v : Word32) : (c.semSet i v).vb = c.vb := rfl
@[simp] theorem Ctx.semSet_p (i : Nat) (v : Word32) : (c.semSet i v).p = c.p := rfl
@[simp] theorem Ctx.semSet_f (i : Nat) (v : Word32) : (c.semSet i v).f = c.f := rfl
@[simp] theorem Ctx.semSet_b (i : Nat) (v : Word32) : (c.semSet i v).b = c.b := rfl
@[simp] theorem Ctx.semSet_ft (i : Nat) (v : Word32) : (c.semSet i v).ft = c.ft := rfl
@[simp] theorem Ctx.semSet_ma (i : Nat) (v : Word32) : (c.semSet i v).ma = c.ma := rfl
@[simp] theorem Ctx.semSet_ch (i : Nat) (v : Word32) : (c.semSet i v).ch = c.ch := rfl
@[simp] theorem Ctx.semSet_mcfg (i : Nat) (v : Word32) : (c.semSet i v).mcfg = c.mcfg := rfl
@[simp] theorem Ctx.semSet_tabA (i : Nat) (v : Word32) : (c.semSet i v).tabA = c.tabA := rfl
@[simp] theorem Ctx.semSet_tabB (i : Nat) (v : Word32) : (c.semSet i v).tabB = c.tabB := rfl
@[simp] theorem Ctx.semSet_mode (i : Nat) (v : Word32) : (c.semSet i v).mode = c.mode := rfl
@[simp] theorem Ctx.semSet_events (i : Nat) (v : Word32) : (c.semSet i v).events = c.events := rfl
@[simp] theorem Ctx.semSet_evmask (i : Nat) (v : Word32) : (c.semSet i v).evmask = c.evmask := rfl
@[simp] theorem Ctx.semSet_fault (i : Nat) (v : Word32) : (c.semSet i v).fault = c.fault := rfl
@[simp] theorem Ctx.semSet_srkey (i : Nat) (v : Word32) : (c.semSet i v).srkey = c.srkey := rfl
@[simp] theorem Ctx.semSet_clock (i : Nat) (v : Word32) : (c.semSet i v).clock = c.clock := rfl
@[simp] theorem Ctx.semSet_replays (i : Nat) (v : Word32) : (c.semSet i v).replays = c.replays := rfl
@[simp] theorem Ctx.semSet_grant (i : Nat) (v : Word32) : (c.semSet i v).grant = c.grant := rfl
@[simp] theorem Ctx.semSet_lm (i : Nat) (v : Word32) : (c.semSet i v).lm = c.lm := rfl
@[simp] theorem Ctx.semSet_ts (i : Nat) (v : Word32) : (c.semSet i v).ts = c.ts := rfl
@[simp] theorem Ctx.semSet_as (i : Nat) (v : Word32) : (c.semSet i v).as = c.as := rfl
@[simp] theorem Ctx.semSet_istore (i : Nat) (v : Word32) : (c.semSet i v).istore = c.istore := rfl
@[simp] theorem Ctx.semSet_poisonLm (i : Nat) (v : Word32) : (c.semSet i v).poisonLm = c.poisonLm := rfl
@[simp] theorem Ctx.semSet_poisonTs (i : Nat) (v : Word32) : (c.semSet i v).poisonTs = c.poisonTs := rfl
@[simp] theorem Ctx.semSet_poisonAs (i : Nat) (v : Word32) : (c.semSet i v).poisonAs = c.poisonAs := rfl
@[simp] theorem Ctx.semSet_poisonSem (i : Nat) (v : Word32) : (c.semSet i v).poisonSem = c.poisonSem := rfl
@[simp] theorem Ctx.semSet_poisonIs (i : Nat) (v : Word32) : (c.semSet i v).poisonIs = c.poisonIs := rfl
@[simp] theorem Ctx.semSet_issued (i : Nat) (v : Word32) : (c.semSet i v).issued = c.issued := rfl
@[simp] theorem Ctx.semSet_inflight (i : Nat) (v : Word32) : (c.semSet i v).inflight = c.inflight := rfl
@[simp] theorem Ctx.semSet_issue (i : Nat) (v : Word32) : (c.semSet i v).issue = c.issue := rfl
@[simp] theorem Ctx.semSet_trapPc (i : Nat) (v : Word32) : (c.semSet i v).trapPc = c.trapPc := rfl
@[simp] theorem Ctx.semSet_tretVal (i : Nat) (v : Word32) : (c.semSet i v).tretVal = c.tretVal := rfl
@[simp] theorem Ctx.semSet_sys (i : Nat) (v : Word32) : (c.semSet i v).sys = c.sys := rfl
@[simp] theorem Ctx.semSet_mq (i : Nat) (v : Word32) : (c.semSet i v).mq = c.mq := rfl
@[simp] theorem Ctx.semSet_mmagStep (i : Nat) (v : Word32) : (c.semSet i v).mmagStep = c.mmagStep := rfl
@[simp] theorem Ctx.semSet_mmagOut (i : Nat) (v : Word32) : (c.semSet i v).mmagOut = c.mmagOut := rfl
@[simp] theorem Ctx.semSet_mmagIn (i : Nat) (v : Word32) : (c.semSet i v).mmagIn = c.mmagIn := rfl
@[simp] theorem Ctx.semSet_ops (i : Nat) (v : Word32) : (c.semSet i v).ops = c.ops := rfl
@[simp] theorem Ctx.semSet_rels (i : Nat) (v : Word32) : (c.semSet i v).rels = c.rels := rfl
@[simp] theorem Ctx.semSet_latom (i : Nat) (v : Word32) : (c.semSet i v).latom = c.latom := rfl
@[simp] theorem Ctx.semSet_failed (i : Nat) (v : Word32) : (c.semSet i v).failed = c.failed := rfl
@[simp] theorem Ctx.semSet_fatal (i : Nat) (v : Word32) : (c.semSet i v).fatal = c.fatal := rfl
@[simp] theorem Ctx.semSet_trapCode (i : Nat) (v : Word32) : (c.semSet i v).trapCode = c.trapCode := rfl
@[simp] theorem Ctx.semSet_yielded (i : Nat) (v : Word32) : (c.semSet i v).yielded = c.yielded := rfl

/-! Ctx.semMark changes sems only. -/

@[simp] theorem Ctx.semMark_key (i : Nat) (f : Nat → Nat) : (c.semMark i f).key = c.key := rfl
@[simp] theorem Ctx.semMark_site (i : Nat) (f : Nat → Nat) : (c.semMark i f).site = c.site := rfl
@[simp] theorem Ctx.semMark_status (i : Nat) (f : Nat → Nat) : (c.semMark i f).status = c.status := rfl
@[simp] theorem Ctx.semMark_info (i : Nat) (f : Nat → Nat) : (c.semMark i f).info = c.info := rfl
@[simp] theorem Ctx.semMark_part (i : Nat) (f : Nat → Nat) : (c.semMark i f).part = c.part := rfl
@[simp] theorem Ctx.semMark_pc (i : Nat) (f : Nat → Nat) : (c.semMark i f).pc = c.pc := rfl
@[simp] theorem Ctx.semMark_xfer (i : Nat) (f : Nat → Nat) : (c.semMark i f).xfer = c.xfer := rfl
@[simp] theorem Ctx.semMark_aside (i : Nat) (f : Nat → Nat) : (c.semMark i f).aside = c.aside := rfl
@[simp] theorem Ctx.semMark_loops (i : Nat) (f : Nat → Nat) : (c.semMark i f).loops = c.loops := rfl
@[simp] theorem Ctx.semMark_repm (i : Nat) (f : Nat → Nat) : (c.semMark i f).repm = c.repm := rfl
@[simp] theorem Ctx.semMark_s (i : Nat) (f : Nat → Nat) : (c.semMark i f).s = c.s := rfl
@[simp] theorem Ctx.semMark_a (i : Nat) (f : Nat → Nat) : (c.semMark i f).a = c.a := rfl
@[simp] theorem Ctx.semMark_va (i : Nat) (f : Nat → Nat) : (c.semMark i f).va = c.va := rfl
@[simp] theorem Ctx.semMark_vb (i : Nat) (f : Nat → Nat) : (c.semMark i f).vb = c.vb := rfl
@[simp] theorem Ctx.semMark_p (i : Nat) (f : Nat → Nat) : (c.semMark i f).p = c.p := rfl
@[simp] theorem Ctx.semMark_f (i : Nat) (f : Nat → Nat) : (c.semMark i f).f = c.f := rfl
@[simp] theorem Ctx.semMark_b (i : Nat) (f : Nat → Nat) : (c.semMark i f).b = c.b := rfl
@[simp] theorem Ctx.semMark_ft (i : Nat) (f : Nat → Nat) : (c.semMark i f).ft = c.ft := rfl
@[simp] theorem Ctx.semMark_ma (i : Nat) (f : Nat → Nat) : (c.semMark i f).ma = c.ma := rfl
@[simp] theorem Ctx.semMark_ch (i : Nat) (f : Nat → Nat) : (c.semMark i f).ch = c.ch := rfl
@[simp] theorem Ctx.semMark_mcfg (i : Nat) (f : Nat → Nat) : (c.semMark i f).mcfg = c.mcfg := rfl
@[simp] theorem Ctx.semMark_tabA (i : Nat) (f : Nat → Nat) : (c.semMark i f).tabA = c.tabA := rfl
@[simp] theorem Ctx.semMark_tabB (i : Nat) (f : Nat → Nat) : (c.semMark i f).tabB = c.tabB := rfl
@[simp] theorem Ctx.semMark_mode (i : Nat) (f : Nat → Nat) : (c.semMark i f).mode = c.mode := rfl
@[simp] theorem Ctx.semMark_events (i : Nat) (f : Nat → Nat) : (c.semMark i f).events = c.events := rfl
@[simp] theorem Ctx.semMark_evmask (i : Nat) (f : Nat → Nat) : (c.semMark i f).evmask = c.evmask := rfl
@[simp] theorem Ctx.semMark_fault (i : Nat) (f : Nat → Nat) : (c.semMark i f).fault = c.fault := rfl
@[simp] theorem Ctx.semMark_srkey (i : Nat) (f : Nat → Nat) : (c.semMark i f).srkey = c.srkey := rfl
@[simp] theorem Ctx.semMark_clock (i : Nat) (f : Nat → Nat) : (c.semMark i f).clock = c.clock := rfl
@[simp] theorem Ctx.semMark_replays (i : Nat) (f : Nat → Nat) : (c.semMark i f).replays = c.replays := rfl
@[simp] theorem Ctx.semMark_grant (i : Nat) (f : Nat → Nat) : (c.semMark i f).grant = c.grant := rfl
@[simp] theorem Ctx.semMark_lm (i : Nat) (f : Nat → Nat) : (c.semMark i f).lm = c.lm := rfl
@[simp] theorem Ctx.semMark_ts (i : Nat) (f : Nat → Nat) : (c.semMark i f).ts = c.ts := rfl
@[simp] theorem Ctx.semMark_as (i : Nat) (f : Nat → Nat) : (c.semMark i f).as = c.as := rfl
@[simp] theorem Ctx.semMark_istore (i : Nat) (f : Nat → Nat) : (c.semMark i f).istore = c.istore := rfl
@[simp] theorem Ctx.semMark_poisonLm (i : Nat) (f : Nat → Nat) : (c.semMark i f).poisonLm = c.poisonLm := rfl
@[simp] theorem Ctx.semMark_poisonTs (i : Nat) (f : Nat → Nat) : (c.semMark i f).poisonTs = c.poisonTs := rfl
@[simp] theorem Ctx.semMark_poisonAs (i : Nat) (f : Nat → Nat) : (c.semMark i f).poisonAs = c.poisonAs := rfl
@[simp] theorem Ctx.semMark_poisonSem (i : Nat) (f : Nat → Nat) : (c.semMark i f).poisonSem = c.poisonSem := rfl
@[simp] theorem Ctx.semMark_poisonIs (i : Nat) (f : Nat → Nat) : (c.semMark i f).poisonIs = c.poisonIs := rfl
@[simp] theorem Ctx.semMark_issued (i : Nat) (f : Nat → Nat) : (c.semMark i f).issued = c.issued := rfl
@[simp] theorem Ctx.semMark_inflight (i : Nat) (f : Nat → Nat) : (c.semMark i f).inflight = c.inflight := rfl
@[simp] theorem Ctx.semMark_issue (i : Nat) (f : Nat → Nat) : (c.semMark i f).issue = c.issue := rfl
@[simp] theorem Ctx.semMark_trapPc (i : Nat) (f : Nat → Nat) : (c.semMark i f).trapPc = c.trapPc := rfl
@[simp] theorem Ctx.semMark_tretVal (i : Nat) (f : Nat → Nat) : (c.semMark i f).tretVal = c.tretVal := rfl
@[simp] theorem Ctx.semMark_sys (i : Nat) (f : Nat → Nat) : (c.semMark i f).sys = c.sys := rfl
@[simp] theorem Ctx.semMark_mq (i : Nat) (f : Nat → Nat) : (c.semMark i f).mq = c.mq := rfl
@[simp] theorem Ctx.semMark_mmagStep (i : Nat) (f : Nat → Nat) : (c.semMark i f).mmagStep = c.mmagStep := rfl
@[simp] theorem Ctx.semMark_mmagOut (i : Nat) (f : Nat → Nat) : (c.semMark i f).mmagOut = c.mmagOut := rfl
@[simp] theorem Ctx.semMark_mmagIn (i : Nat) (f : Nat → Nat) : (c.semMark i f).mmagIn = c.mmagIn := rfl
@[simp] theorem Ctx.semMark_ops (i : Nat) (f : Nat → Nat) : (c.semMark i f).ops = c.ops := rfl
@[simp] theorem Ctx.semMark_rels (i : Nat) (f : Nat → Nat) : (c.semMark i f).rels = c.rels := rfl
@[simp] theorem Ctx.semMark_latom (i : Nat) (f : Nat → Nat) : (c.semMark i f).latom = c.latom := rfl
@[simp] theorem Ctx.semMark_failed (i : Nat) (f : Nat → Nat) : (c.semMark i f).failed = c.failed := rfl
@[simp] theorem Ctx.semMark_fatal (i : Nat) (f : Nat → Nat) : (c.semMark i f).fatal = c.fatal := rfl
@[simp] theorem Ctx.semMark_trapCode (i : Nat) (f : Nat → Nat) : (c.semMark i f).trapCode = c.trapCode := rfl
@[simp] theorem Ctx.semMark_yielded (i : Nat) (f : Nat → Nat) : (c.semMark i f).yielded = c.yielded := rfl

/-! Ctx.lmSet changes lm and poisonLm only. -/

@[simp] theorem Ctx.lmSet_key (off : Nat) (bs : List Byte) : (c.lmSet off bs).key = c.key := rfl
@[simp] theorem Ctx.lmSet_site (off : Nat) (bs : List Byte) : (c.lmSet off bs).site = c.site := rfl
@[simp] theorem Ctx.lmSet_status (off : Nat) (bs : List Byte) : (c.lmSet off bs).status = c.status := rfl
@[simp] theorem Ctx.lmSet_info (off : Nat) (bs : List Byte) : (c.lmSet off bs).info = c.info := rfl
@[simp] theorem Ctx.lmSet_part (off : Nat) (bs : List Byte) : (c.lmSet off bs).part = c.part := rfl
@[simp] theorem Ctx.lmSet_pc (off : Nat) (bs : List Byte) : (c.lmSet off bs).pc = c.pc := rfl
@[simp] theorem Ctx.lmSet_xfer (off : Nat) (bs : List Byte) : (c.lmSet off bs).xfer = c.xfer := rfl
@[simp] theorem Ctx.lmSet_aside (off : Nat) (bs : List Byte) : (c.lmSet off bs).aside = c.aside := rfl
@[simp] theorem Ctx.lmSet_loops (off : Nat) (bs : List Byte) : (c.lmSet off bs).loops = c.loops := rfl
@[simp] theorem Ctx.lmSet_repm (off : Nat) (bs : List Byte) : (c.lmSet off bs).repm = c.repm := rfl
@[simp] theorem Ctx.lmSet_s (off : Nat) (bs : List Byte) : (c.lmSet off bs).s = c.s := rfl
@[simp] theorem Ctx.lmSet_a (off : Nat) (bs : List Byte) : (c.lmSet off bs).a = c.a := rfl
@[simp] theorem Ctx.lmSet_va (off : Nat) (bs : List Byte) : (c.lmSet off bs).va = c.va := rfl
@[simp] theorem Ctx.lmSet_vb (off : Nat) (bs : List Byte) : (c.lmSet off bs).vb = c.vb := rfl
@[simp] theorem Ctx.lmSet_p (off : Nat) (bs : List Byte) : (c.lmSet off bs).p = c.p := rfl
@[simp] theorem Ctx.lmSet_f (off : Nat) (bs : List Byte) : (c.lmSet off bs).f = c.f := rfl
@[simp] theorem Ctx.lmSet_b (off : Nat) (bs : List Byte) : (c.lmSet off bs).b = c.b := rfl
@[simp] theorem Ctx.lmSet_ft (off : Nat) (bs : List Byte) : (c.lmSet off bs).ft = c.ft := rfl
@[simp] theorem Ctx.lmSet_ma (off : Nat) (bs : List Byte) : (c.lmSet off bs).ma = c.ma := rfl
@[simp] theorem Ctx.lmSet_ch (off : Nat) (bs : List Byte) : (c.lmSet off bs).ch = c.ch := rfl
@[simp] theorem Ctx.lmSet_mcfg (off : Nat) (bs : List Byte) : (c.lmSet off bs).mcfg = c.mcfg := rfl
@[simp] theorem Ctx.lmSet_tabA (off : Nat) (bs : List Byte) : (c.lmSet off bs).tabA = c.tabA := rfl
@[simp] theorem Ctx.lmSet_tabB (off : Nat) (bs : List Byte) : (c.lmSet off bs).tabB = c.tabB := rfl
@[simp] theorem Ctx.lmSet_mode (off : Nat) (bs : List Byte) : (c.lmSet off bs).mode = c.mode := rfl
@[simp] theorem Ctx.lmSet_events (off : Nat) (bs : List Byte) : (c.lmSet off bs).events = c.events := rfl
@[simp] theorem Ctx.lmSet_evmask (off : Nat) (bs : List Byte) : (c.lmSet off bs).evmask = c.evmask := rfl
@[simp] theorem Ctx.lmSet_fault (off : Nat) (bs : List Byte) : (c.lmSet off bs).fault = c.fault := rfl
@[simp] theorem Ctx.lmSet_srkey (off : Nat) (bs : List Byte) : (c.lmSet off bs).srkey = c.srkey := rfl
@[simp] theorem Ctx.lmSet_clock (off : Nat) (bs : List Byte) : (c.lmSet off bs).clock = c.clock := rfl
@[simp] theorem Ctx.lmSet_replays (off : Nat) (bs : List Byte) : (c.lmSet off bs).replays = c.replays := rfl
@[simp] theorem Ctx.lmSet_grant (off : Nat) (bs : List Byte) : (c.lmSet off bs).grant = c.grant := rfl
@[simp] theorem Ctx.lmSet_ts (off : Nat) (bs : List Byte) : (c.lmSet off bs).ts = c.ts := rfl
@[simp] theorem Ctx.lmSet_as (off : Nat) (bs : List Byte) : (c.lmSet off bs).as = c.as := rfl
@[simp] theorem Ctx.lmSet_istore (off : Nat) (bs : List Byte) : (c.lmSet off bs).istore = c.istore := rfl
@[simp] theorem Ctx.lmSet_sems (off : Nat) (bs : List Byte) : (c.lmSet off bs).sems = c.sems := rfl
@[simp] theorem Ctx.lmSet_poisonTs (off : Nat) (bs : List Byte) : (c.lmSet off bs).poisonTs = c.poisonTs := rfl
@[simp] theorem Ctx.lmSet_poisonAs (off : Nat) (bs : List Byte) : (c.lmSet off bs).poisonAs = c.poisonAs := rfl
@[simp] theorem Ctx.lmSet_poisonSem (off : Nat) (bs : List Byte) : (c.lmSet off bs).poisonSem = c.poisonSem := rfl
@[simp] theorem Ctx.lmSet_poisonIs (off : Nat) (bs : List Byte) : (c.lmSet off bs).poisonIs = c.poisonIs := rfl
@[simp] theorem Ctx.lmSet_issued (off : Nat) (bs : List Byte) : (c.lmSet off bs).issued = c.issued := rfl
@[simp] theorem Ctx.lmSet_inflight (off : Nat) (bs : List Byte) : (c.lmSet off bs).inflight = c.inflight := rfl
@[simp] theorem Ctx.lmSet_issue (off : Nat) (bs : List Byte) : (c.lmSet off bs).issue = c.issue := rfl
@[simp] theorem Ctx.lmSet_trapPc (off : Nat) (bs : List Byte) : (c.lmSet off bs).trapPc = c.trapPc := rfl
@[simp] theorem Ctx.lmSet_tretVal (off : Nat) (bs : List Byte) : (c.lmSet off bs).tretVal = c.tretVal := rfl
@[simp] theorem Ctx.lmSet_sys (off : Nat) (bs : List Byte) : (c.lmSet off bs).sys = c.sys := rfl
@[simp] theorem Ctx.lmSet_mq (off : Nat) (bs : List Byte) : (c.lmSet off bs).mq = c.mq := rfl
@[simp] theorem Ctx.lmSet_mmagStep (off : Nat) (bs : List Byte) : (c.lmSet off bs).mmagStep = c.mmagStep := rfl
@[simp] theorem Ctx.lmSet_mmagOut (off : Nat) (bs : List Byte) : (c.lmSet off bs).mmagOut = c.mmagOut := rfl
@[simp] theorem Ctx.lmSet_mmagIn (off : Nat) (bs : List Byte) : (c.lmSet off bs).mmagIn = c.mmagIn := rfl
@[simp] theorem Ctx.lmSet_ops (off : Nat) (bs : List Byte) : (c.lmSet off bs).ops = c.ops := rfl
@[simp] theorem Ctx.lmSet_rels (off : Nat) (bs : List Byte) : (c.lmSet off bs).rels = c.rels := rfl
@[simp] theorem Ctx.lmSet_latom (off : Nat) (bs : List Byte) : (c.lmSet off bs).latom = c.latom := rfl
@[simp] theorem Ctx.lmSet_failed (off : Nat) (bs : List Byte) : (c.lmSet off bs).failed = c.failed := rfl
@[simp] theorem Ctx.lmSet_fatal (off : Nat) (bs : List Byte) : (c.lmSet off bs).fatal = c.fatal := rfl
@[simp] theorem Ctx.lmSet_trapCode (off : Nat) (bs : List Byte) : (c.lmSet off bs).trapCode = c.trapCode := rfl
@[simp] theorem Ctx.lmSet_yielded (off : Nat) (bs : List Byte) : (c.lmSet off bs).yielded = c.yielded := rfl

/-! Ctx.keepFor changes ops only. -/

@[simp] theorem Ctx.keepFor_key (n off k : Nat) : (c.keepFor n off k).key = c.key := rfl
@[simp] theorem Ctx.keepFor_site (n off k : Nat) : (c.keepFor n off k).site = c.site := rfl
@[simp] theorem Ctx.keepFor_status (n off k : Nat) : (c.keepFor n off k).status = c.status := rfl
@[simp] theorem Ctx.keepFor_info (n off k : Nat) : (c.keepFor n off k).info = c.info := rfl
@[simp] theorem Ctx.keepFor_part (n off k : Nat) : (c.keepFor n off k).part = c.part := rfl
@[simp] theorem Ctx.keepFor_pc (n off k : Nat) : (c.keepFor n off k).pc = c.pc := rfl
@[simp] theorem Ctx.keepFor_xfer (n off k : Nat) : (c.keepFor n off k).xfer = c.xfer := rfl
@[simp] theorem Ctx.keepFor_aside (n off k : Nat) : (c.keepFor n off k).aside = c.aside := rfl
@[simp] theorem Ctx.keepFor_loops (n off k : Nat) : (c.keepFor n off k).loops = c.loops := rfl
@[simp] theorem Ctx.keepFor_repm (n off k : Nat) : (c.keepFor n off k).repm = c.repm := rfl
@[simp] theorem Ctx.keepFor_s (n off k : Nat) : (c.keepFor n off k).s = c.s := rfl
@[simp] theorem Ctx.keepFor_a (n off k : Nat) : (c.keepFor n off k).a = c.a := rfl
@[simp] theorem Ctx.keepFor_va (n off k : Nat) : (c.keepFor n off k).va = c.va := rfl
@[simp] theorem Ctx.keepFor_vb (n off k : Nat) : (c.keepFor n off k).vb = c.vb := rfl
@[simp] theorem Ctx.keepFor_p (n off k : Nat) : (c.keepFor n off k).p = c.p := rfl
@[simp] theorem Ctx.keepFor_f (n off k : Nat) : (c.keepFor n off k).f = c.f := rfl
@[simp] theorem Ctx.keepFor_b (n off k : Nat) : (c.keepFor n off k).b = c.b := rfl
@[simp] theorem Ctx.keepFor_ft (n off k : Nat) : (c.keepFor n off k).ft = c.ft := rfl
@[simp] theorem Ctx.keepFor_ma (n off k : Nat) : (c.keepFor n off k).ma = c.ma := rfl
@[simp] theorem Ctx.keepFor_ch (n off k : Nat) : (c.keepFor n off k).ch = c.ch := rfl
@[simp] theorem Ctx.keepFor_mcfg (n off k : Nat) : (c.keepFor n off k).mcfg = c.mcfg := rfl
@[simp] theorem Ctx.keepFor_tabA (n off k : Nat) : (c.keepFor n off k).tabA = c.tabA := rfl
@[simp] theorem Ctx.keepFor_tabB (n off k : Nat) : (c.keepFor n off k).tabB = c.tabB := rfl
@[simp] theorem Ctx.keepFor_mode (n off k : Nat) : (c.keepFor n off k).mode = c.mode := rfl
@[simp] theorem Ctx.keepFor_events (n off k : Nat) : (c.keepFor n off k).events = c.events := rfl
@[simp] theorem Ctx.keepFor_evmask (n off k : Nat) : (c.keepFor n off k).evmask = c.evmask := rfl
@[simp] theorem Ctx.keepFor_fault (n off k : Nat) : (c.keepFor n off k).fault = c.fault := rfl
@[simp] theorem Ctx.keepFor_srkey (n off k : Nat) : (c.keepFor n off k).srkey = c.srkey := rfl
@[simp] theorem Ctx.keepFor_clock (n off k : Nat) : (c.keepFor n off k).clock = c.clock := rfl
@[simp] theorem Ctx.keepFor_replays (n off k : Nat) : (c.keepFor n off k).replays = c.replays := rfl
@[simp] theorem Ctx.keepFor_grant (n off k : Nat) : (c.keepFor n off k).grant = c.grant := rfl
@[simp] theorem Ctx.keepFor_lm (n off k : Nat) : (c.keepFor n off k).lm = c.lm := rfl
@[simp] theorem Ctx.keepFor_ts (n off k : Nat) : (c.keepFor n off k).ts = c.ts := rfl
@[simp] theorem Ctx.keepFor_as (n off k : Nat) : (c.keepFor n off k).as = c.as := rfl
@[simp] theorem Ctx.keepFor_istore (n off k : Nat) : (c.keepFor n off k).istore = c.istore := rfl
@[simp] theorem Ctx.keepFor_sems (n off k : Nat) : (c.keepFor n off k).sems = c.sems := rfl
@[simp] theorem Ctx.keepFor_poisonLm (n off k : Nat) : (c.keepFor n off k).poisonLm = c.poisonLm := rfl
@[simp] theorem Ctx.keepFor_poisonTs (n off k : Nat) : (c.keepFor n off k).poisonTs = c.poisonTs := rfl
@[simp] theorem Ctx.keepFor_poisonAs (n off k : Nat) : (c.keepFor n off k).poisonAs = c.poisonAs := rfl
@[simp] theorem Ctx.keepFor_poisonSem (n off k : Nat) : (c.keepFor n off k).poisonSem = c.poisonSem := rfl
@[simp] theorem Ctx.keepFor_poisonIs (n off k : Nat) : (c.keepFor n off k).poisonIs = c.poisonIs := rfl
@[simp] theorem Ctx.keepFor_issued (n off k : Nat) : (c.keepFor n off k).issued = c.issued := rfl
@[simp] theorem Ctx.keepFor_inflight (n off k : Nat) : (c.keepFor n off k).inflight = c.inflight := rfl
@[simp] theorem Ctx.keepFor_issue (n off k : Nat) : (c.keepFor n off k).issue = c.issue := rfl
@[simp] theorem Ctx.keepFor_trapPc (n off k : Nat) : (c.keepFor n off k).trapPc = c.trapPc := rfl
@[simp] theorem Ctx.keepFor_tretVal (n off k : Nat) : (c.keepFor n off k).tretVal = c.tretVal := rfl
@[simp] theorem Ctx.keepFor_sys (n off k : Nat) : (c.keepFor n off k).sys = c.sys := rfl
@[simp] theorem Ctx.keepFor_mq (n off k : Nat) : (c.keepFor n off k).mq = c.mq := rfl
@[simp] theorem Ctx.keepFor_mmagStep (n off k : Nat) : (c.keepFor n off k).mmagStep = c.mmagStep := rfl
@[simp] theorem Ctx.keepFor_mmagOut (n off k : Nat) : (c.keepFor n off k).mmagOut = c.mmagOut := rfl
@[simp] theorem Ctx.keepFor_mmagIn (n off k : Nat) : (c.keepFor n off k).mmagIn = c.mmagIn := rfl
@[simp] theorem Ctx.keepFor_rels (n off k : Nat) : (c.keepFor n off k).rels = c.rels := rfl
@[simp] theorem Ctx.keepFor_latom (n off k : Nat) : (c.keepFor n off k).latom = c.latom := rfl
@[simp] theorem Ctx.keepFor_failed (n off k : Nat) : (c.keepFor n off k).failed = c.failed := rfl
@[simp] theorem Ctx.keepFor_fatal (n off k : Nat) : (c.keepFor n off k).fatal = c.fatal := rfl
@[simp] theorem Ctx.keepFor_trapCode (n off k : Nat) : (c.keepFor n off k).trapCode = c.trapCode := rfl
@[simp] theorem Ctx.keepFor_yielded (n off k : Nat) : (c.keepFor n off k).yielded = c.yielded := rfl

/-! Ctx.putOp changes ops only. -/

@[simp] theorem Ctx.putOp_key (o : Op) : (c.putOp o).key = c.key := rfl
@[simp] theorem Ctx.putOp_site (o : Op) : (c.putOp o).site = c.site := rfl
@[simp] theorem Ctx.putOp_status (o : Op) : (c.putOp o).status = c.status := rfl
@[simp] theorem Ctx.putOp_info (o : Op) : (c.putOp o).info = c.info := rfl
@[simp] theorem Ctx.putOp_part (o : Op) : (c.putOp o).part = c.part := rfl
@[simp] theorem Ctx.putOp_pc (o : Op) : (c.putOp o).pc = c.pc := rfl
@[simp] theorem Ctx.putOp_xfer (o : Op) : (c.putOp o).xfer = c.xfer := rfl
@[simp] theorem Ctx.putOp_aside (o : Op) : (c.putOp o).aside = c.aside := rfl
@[simp] theorem Ctx.putOp_loops (o : Op) : (c.putOp o).loops = c.loops := rfl
@[simp] theorem Ctx.putOp_repm (o : Op) : (c.putOp o).repm = c.repm := rfl
@[simp] theorem Ctx.putOp_s (o : Op) : (c.putOp o).s = c.s := rfl
@[simp] theorem Ctx.putOp_a (o : Op) : (c.putOp o).a = c.a := rfl
@[simp] theorem Ctx.putOp_va (o : Op) : (c.putOp o).va = c.va := rfl
@[simp] theorem Ctx.putOp_vb (o : Op) : (c.putOp o).vb = c.vb := rfl
@[simp] theorem Ctx.putOp_p (o : Op) : (c.putOp o).p = c.p := rfl
@[simp] theorem Ctx.putOp_f (o : Op) : (c.putOp o).f = c.f := rfl
@[simp] theorem Ctx.putOp_b (o : Op) : (c.putOp o).b = c.b := rfl
@[simp] theorem Ctx.putOp_ft (o : Op) : (c.putOp o).ft = c.ft := rfl
@[simp] theorem Ctx.putOp_ma (o : Op) : (c.putOp o).ma = c.ma := rfl
@[simp] theorem Ctx.putOp_ch (o : Op) : (c.putOp o).ch = c.ch := rfl
@[simp] theorem Ctx.putOp_mcfg (o : Op) : (c.putOp o).mcfg = c.mcfg := rfl
@[simp] theorem Ctx.putOp_tabA (o : Op) : (c.putOp o).tabA = c.tabA := rfl
@[simp] theorem Ctx.putOp_tabB (o : Op) : (c.putOp o).tabB = c.tabB := rfl
@[simp] theorem Ctx.putOp_mode (o : Op) : (c.putOp o).mode = c.mode := rfl
@[simp] theorem Ctx.putOp_events (o : Op) : (c.putOp o).events = c.events := rfl
@[simp] theorem Ctx.putOp_evmask (o : Op) : (c.putOp o).evmask = c.evmask := rfl
@[simp] theorem Ctx.putOp_fault (o : Op) : (c.putOp o).fault = c.fault := rfl
@[simp] theorem Ctx.putOp_srkey (o : Op) : (c.putOp o).srkey = c.srkey := rfl
@[simp] theorem Ctx.putOp_clock (o : Op) : (c.putOp o).clock = c.clock := rfl
@[simp] theorem Ctx.putOp_replays (o : Op) : (c.putOp o).replays = c.replays := rfl
@[simp] theorem Ctx.putOp_grant (o : Op) : (c.putOp o).grant = c.grant := rfl
@[simp] theorem Ctx.putOp_lm (o : Op) : (c.putOp o).lm = c.lm := rfl
@[simp] theorem Ctx.putOp_ts (o : Op) : (c.putOp o).ts = c.ts := rfl
@[simp] theorem Ctx.putOp_as (o : Op) : (c.putOp o).as = c.as := rfl
@[simp] theorem Ctx.putOp_istore (o : Op) : (c.putOp o).istore = c.istore := rfl
@[simp] theorem Ctx.putOp_sems (o : Op) : (c.putOp o).sems = c.sems := rfl
@[simp] theorem Ctx.putOp_poisonLm (o : Op) : (c.putOp o).poisonLm = c.poisonLm := rfl
@[simp] theorem Ctx.putOp_poisonTs (o : Op) : (c.putOp o).poisonTs = c.poisonTs := rfl
@[simp] theorem Ctx.putOp_poisonAs (o : Op) : (c.putOp o).poisonAs = c.poisonAs := rfl
@[simp] theorem Ctx.putOp_poisonSem (o : Op) : (c.putOp o).poisonSem = c.poisonSem := rfl
@[simp] theorem Ctx.putOp_poisonIs (o : Op) : (c.putOp o).poisonIs = c.poisonIs := rfl
@[simp] theorem Ctx.putOp_issued (o : Op) : (c.putOp o).issued = c.issued := rfl
@[simp] theorem Ctx.putOp_inflight (o : Op) : (c.putOp o).inflight = c.inflight := rfl
@[simp] theorem Ctx.putOp_issue (o : Op) : (c.putOp o).issue = c.issue := rfl
@[simp] theorem Ctx.putOp_trapPc (o : Op) : (c.putOp o).trapPc = c.trapPc := rfl
@[simp] theorem Ctx.putOp_tretVal (o : Op) : (c.putOp o).tretVal = c.tretVal := rfl
@[simp] theorem Ctx.putOp_sys (o : Op) : (c.putOp o).sys = c.sys := rfl
@[simp] theorem Ctx.putOp_mq (o : Op) : (c.putOp o).mq = c.mq := rfl
@[simp] theorem Ctx.putOp_mmagStep (o : Op) : (c.putOp o).mmagStep = c.mmagStep := rfl
@[simp] theorem Ctx.putOp_mmagOut (o : Op) : (c.putOp o).mmagOut = c.mmagOut := rfl
@[simp] theorem Ctx.putOp_mmagIn (o : Op) : (c.putOp o).mmagIn = c.mmagIn := rfl
@[simp] theorem Ctx.putOp_rels (o : Op) : (c.putOp o).rels = c.rels := rfl
@[simp] theorem Ctx.putOp_latom (o : Op) : (c.putOp o).latom = c.latom := rfl
@[simp] theorem Ctx.putOp_failed (o : Op) : (c.putOp o).failed = c.failed := rfl
@[simp] theorem Ctx.putOp_fatal (o : Op) : (c.putOp o).fatal = c.fatal := rfl
@[simp] theorem Ctx.putOp_trapCode (o : Op) : (c.putOp o).trapCode = c.trapCode := rfl
@[simp] theorem Ctx.putOp_yielded (o : Op) : (c.putOp o).yielded = c.yielded := rfl

end

section
variable (s : State)

/-! State.modCtx changes ctxs only. -/

@[simp] theorem State.modCtx_cur (k : CtxKey) (f : Ctx → Ctx) : (s.modCtx k f).cur = s.cur := rfl
@[simp] theorem State.modCtx_agenda (k : CtxKey) (f : Ctx → Ctx) : (s.modCtx k f).agenda = s.agenda := rfl
@[simp] theorem State.modCtx_deferred (k : CtxKey) (f : Ctx → Ctx) : (s.modCtx k f).deferred = s.deferred := rfl
@[simp] theorem State.modCtx_streams (k : CtxKey) (f : Ctx → Ctx) : (s.modCtx k f).streams = s.streams := rfl
@[simp] theorem State.modCtx_fresh (k : CtxKey) (f : Ctx → Ctx) : (s.modCtx k f).fresh = s.fresh := rfl
@[simp] theorem State.modCtx_powered (k : CtxKey) (f : Ctx → Ctx) : (s.modCtx k f).powered = s.powered := rfl
@[simp] theorem State.modCtx_sites (k : CtxKey) (f : Ctx → Ctx) : (s.modCtx k f).sites = s.sites := rfl
@[simp] theorem State.modCtx_dies (k : CtxKey) (f : Ctx → Ctx) : (s.modCtx k f).dies = s.dies := rfl
@[simp] theorem State.modCtx_edges (k : CtxKey) (f : Ctx → Ctx) : (s.modCtx k f).edges = s.edges := rfl
@[simp] theorem State.modCtx_chans (k : CtxKey) (f : Ctx → Ctx) : (s.modCtx k f).chans = s.chans := rfl
@[simp] theorem State.modCtx_hbm (k : CtxKey) (f : Ctx → Ctx) : (s.modCtx k f).hbm = s.hbm := rfl
@[simp] theorem State.modCtx_hbmPoison (k : CtxKey) (f : Ctx → Ctx) : (s.modCtx k f).hbmPoison = s.hbmPoison := rfl
@[simp] theorem State.modCtx_reqs (k : CtxKey) (f : Ctx → Ctx) : (s.modCtx k f).reqs = s.reqs := rfl
@[simp] theorem State.modCtx_transit (k : CtxKey) (f : Ctx → Ctx) : (s.modCtx k f).transit = s.transit := rfl
@[simp] theorem State.modCtx_clpOut (k : CtxKey) (f : Ctx → Ctx) : (s.modCtx k f).clpOut = s.clpOut := rfl
@[simp] theorem State.modCtx_clpSent (k : CtxKey) (f : Ctx → Ctx) : (s.modCtx k f).clpSent = s.clpSent := rfl
@[simp] theorem State.modCtx_inbox (k : CtxKey) (f : Ctx → Ctx) : (s.modCtx k f).inbox = s.inbox := rfl
@[simp] theorem State.modCtx_tag (k : CtxKey) (f : Ctx → Ctx) : (s.modCtx k f).tag = s.tag := rfl
@[simp] theorem State.modCtx_astbase (k : CtxKey) (f : Ctx → Ctx) : (s.modCtx k f).astbase = s.astbase := rfl
@[simp] theorem State.modCtx_invva (k : CtxKey) (f : Ctx → Ctx) : (s.modCtx k f).invva = s.invva := rfl
@[simp] theorem State.modCtx_invAt (k : CtxKey) (f : Ctx → Ctx) : (s.modCtx k f).invAt = s.invAt := rfl
@[simp] theorem State.modCtx_invctl (k : CtxKey) (f : Ctx → Ctx) : (s.modCtx k f).invctl = s.invctl := rfl
@[simp] theorem State.modCtx_invSeq (k : CtxKey) (f : Ctx → Ctx) : (s.modCtx k f).invSeq = s.invSeq := rfl
@[simp] theorem State.modCtx_invRefused (k : CtxKey) (f : Ctx → Ctx) : (s.modCtx k f).invRefused = s.invRefused := rfl
@[simp] theorem State.modCtx_invBusy (k : CtxKey) (f : Ctx → Ctx) : (s.modCtx k f).invBusy = s.invBusy := rfl
@[simp] theorem State.modCtx_devcfg (k : CtxKey) (f : Ctx → Ctx) : (s.modCtx k f).devcfg = s.devcfg := rfl
@[simp] theorem State.modCtx_routes (k : CtxKey) (f : Ctx → Ctx) : (s.modCtx k f).routes = s.routes := rfl
@[simp] theorem State.modCtx_queues (k : CtxKey) (f : Ctx → Ctx) : (s.modCtx k f).queues = s.queues := rfl
@[simp] theorem State.modCtx_bells (k : CtxKey) (f : Ctx → Ctx) : (s.modCtx k f).bells = s.bells := rfl
@[simp] theorem State.modCtx_ctlEvents (k : CtxKey) (f : Ctx → Ctx) : (s.modCtx k f).ctlEvents = s.ctlEvents := rfl
@[simp] theorem State.modCtx_groups (k : CtxKey) (f : Ctx → Ctx) : (s.modCtx k f).groups = s.groups := rfl
@[simp] theorem State.modCtx_launches (k : CtxKey) (f : Ctx → Ctx) : (s.modCtx k f).launches = s.launches := rfl
@[simp] theorem State.modCtx_tracts (k : CtxKey) (f : Ctx → Ctx) : (s.modCtx k f).tracts = s.tracts := rfl
@[simp] theorem State.modCtx_nextTract (k : CtxKey) (f : Ctx → Ctx) : (s.modCtx k f).nextTract = s.nextTract := rfl
@[simp] theorem State.modCtx_orders (k : CtxKey) (f : Ctx → Ctx) : (s.modCtx k f).orders = s.orders := rfl
@[simp] theorem State.modCtx_rr (k : CtxKey) (f : Ctx → Ctx) : (s.modCtx k f).rr = s.rr := rfl
@[simp] theorem State.modCtx_reservations (k : CtxKey) (f : Ctx → Ctx) : (s.modCtx k f).reservations = s.reservations := rfl
@[simp] theorem State.modCtx_images (k : CtxKey) (f : Ctx → Ctx) : (s.modCtx k f).images = s.images := rfl
@[simp] theorem State.modCtx_saddle (k : CtxKey) (f : Ctx → Ctx) : (s.modCtx k f).saddle = s.saddle := rfl
@[simp] theorem State.modCtx_persist (k : CtxKey) (f : Ctx → Ctx) : (s.modCtx k f).persist = s.persist := rfl
@[simp] theorem State.modCtx_repl (k : CtxKey) (f : Ctx → Ctx) : (s.modCtx k f).repl = s.repl := rfl
@[simp] theorem State.modCtx_attempts (k : CtxKey) (f : Ctx → Ctx) : (s.modCtx k f).attempts = s.attempts := rfl
@[simp] theorem State.modCtx_steppeDue (k : CtxKey) (f : Ctx → Ctx) : (s.modCtx k f).steppeDue = s.steppeDue := rfl
@[simp] theorem State.modCtx_outbox (k : CtxKey) (f : Ctx → Ctx) : (s.modCtx k f).outbox = s.outbox := rfl

/-! State.modMembers changes ctxs only. -/

@[simp] theorem State.modMembers_cur (n : Nat) (f : Ctx → Ctx) : (s.modMembers n f).cur = s.cur := rfl
@[simp] theorem State.modMembers_agenda (n : Nat) (f : Ctx → Ctx) : (s.modMembers n f).agenda = s.agenda := rfl
@[simp] theorem State.modMembers_deferred (n : Nat) (f : Ctx → Ctx) : (s.modMembers n f).deferred = s.deferred := rfl
@[simp] theorem State.modMembers_streams (n : Nat) (f : Ctx → Ctx) : (s.modMembers n f).streams = s.streams := rfl
@[simp] theorem State.modMembers_fresh (n : Nat) (f : Ctx → Ctx) : (s.modMembers n f).fresh = s.fresh := rfl
@[simp] theorem State.modMembers_powered (n : Nat) (f : Ctx → Ctx) : (s.modMembers n f).powered = s.powered := rfl
@[simp] theorem State.modMembers_sites (n : Nat) (f : Ctx → Ctx) : (s.modMembers n f).sites = s.sites := rfl
@[simp] theorem State.modMembers_dies (n : Nat) (f : Ctx → Ctx) : (s.modMembers n f).dies = s.dies := rfl
@[simp] theorem State.modMembers_edges (n : Nat) (f : Ctx → Ctx) : (s.modMembers n f).edges = s.edges := rfl
@[simp] theorem State.modMembers_chans (n : Nat) (f : Ctx → Ctx) : (s.modMembers n f).chans = s.chans := rfl
@[simp] theorem State.modMembers_hbm (n : Nat) (f : Ctx → Ctx) : (s.modMembers n f).hbm = s.hbm := rfl
@[simp] theorem State.modMembers_hbmPoison (n : Nat) (f : Ctx → Ctx) : (s.modMembers n f).hbmPoison = s.hbmPoison := rfl
@[simp] theorem State.modMembers_reqs (n : Nat) (f : Ctx → Ctx) : (s.modMembers n f).reqs = s.reqs := rfl
@[simp] theorem State.modMembers_transit (n : Nat) (f : Ctx → Ctx) : (s.modMembers n f).transit = s.transit := rfl
@[simp] theorem State.modMembers_clpOut (n : Nat) (f : Ctx → Ctx) : (s.modMembers n f).clpOut = s.clpOut := rfl
@[simp] theorem State.modMembers_clpSent (n : Nat) (f : Ctx → Ctx) : (s.modMembers n f).clpSent = s.clpSent := rfl
@[simp] theorem State.modMembers_inbox (n : Nat) (f : Ctx → Ctx) : (s.modMembers n f).inbox = s.inbox := rfl
@[simp] theorem State.modMembers_tag (n : Nat) (f : Ctx → Ctx) : (s.modMembers n f).tag = s.tag := rfl
@[simp] theorem State.modMembers_astbase (n : Nat) (f : Ctx → Ctx) : (s.modMembers n f).astbase = s.astbase := rfl
@[simp] theorem State.modMembers_invva (n : Nat) (f : Ctx → Ctx) : (s.modMembers n f).invva = s.invva := rfl
@[simp] theorem State.modMembers_invAt (n : Nat) (f : Ctx → Ctx) : (s.modMembers n f).invAt = s.invAt := rfl
@[simp] theorem State.modMembers_invctl (n : Nat) (f : Ctx → Ctx) : (s.modMembers n f).invctl = s.invctl := rfl
@[simp] theorem State.modMembers_invSeq (n : Nat) (f : Ctx → Ctx) : (s.modMembers n f).invSeq = s.invSeq := rfl
@[simp] theorem State.modMembers_invRefused (n : Nat) (f : Ctx → Ctx) : (s.modMembers n f).invRefused = s.invRefused := rfl
@[simp] theorem State.modMembers_invBusy (n : Nat) (f : Ctx → Ctx) : (s.modMembers n f).invBusy = s.invBusy := rfl
@[simp] theorem State.modMembers_devcfg (n : Nat) (f : Ctx → Ctx) : (s.modMembers n f).devcfg = s.devcfg := rfl
@[simp] theorem State.modMembers_routes (n : Nat) (f : Ctx → Ctx) : (s.modMembers n f).routes = s.routes := rfl
@[simp] theorem State.modMembers_queues (n : Nat) (f : Ctx → Ctx) : (s.modMembers n f).queues = s.queues := rfl
@[simp] theorem State.modMembers_bells (n : Nat) (f : Ctx → Ctx) : (s.modMembers n f).bells = s.bells := rfl
@[simp] theorem State.modMembers_ctlEvents (n : Nat) (f : Ctx → Ctx) : (s.modMembers n f).ctlEvents = s.ctlEvents := rfl
@[simp] theorem State.modMembers_groups (n : Nat) (f : Ctx → Ctx) : (s.modMembers n f).groups = s.groups := rfl
@[simp] theorem State.modMembers_launches (n : Nat) (f : Ctx → Ctx) : (s.modMembers n f).launches = s.launches := rfl
@[simp] theorem State.modMembers_tracts (n : Nat) (f : Ctx → Ctx) : (s.modMembers n f).tracts = s.tracts := rfl
@[simp] theorem State.modMembers_nextTract (n : Nat) (f : Ctx → Ctx) : (s.modMembers n f).nextTract = s.nextTract := rfl
@[simp] theorem State.modMembers_orders (n : Nat) (f : Ctx → Ctx) : (s.modMembers n f).orders = s.orders := rfl
@[simp] theorem State.modMembers_rr (n : Nat) (f : Ctx → Ctx) : (s.modMembers n f).rr = s.rr := rfl
@[simp] theorem State.modMembers_reservations (n : Nat) (f : Ctx → Ctx) : (s.modMembers n f).reservations = s.reservations := rfl
@[simp] theorem State.modMembers_images (n : Nat) (f : Ctx → Ctx) : (s.modMembers n f).images = s.images := rfl
@[simp] theorem State.modMembers_saddle (n : Nat) (f : Ctx → Ctx) : (s.modMembers n f).saddle = s.saddle := rfl
@[simp] theorem State.modMembers_persist (n : Nat) (f : Ctx → Ctx) : (s.modMembers n f).persist = s.persist := rfl
@[simp] theorem State.modMembers_repl (n : Nat) (f : Ctx → Ctx) : (s.modMembers n f).repl = s.repl := rfl
@[simp] theorem State.modMembers_attempts (n : Nat) (f : Ctx → Ctx) : (s.modMembers n f).attempts = s.attempts := rfl
@[simp] theorem State.modMembers_steppeDue (n : Nat) (f : Ctx → Ctx) : (s.modMembers n f).steppeDue = s.steppeDue := rfl
@[simp] theorem State.modMembers_outbox (n : Nat) (f : Ctx → Ctx) : (s.modMembers n f).outbox = s.outbox := rfl

/-! State.modSite changes sites only. -/

@[simp] theorem State.modSite_cur (i : Nat) (f : Site → Site) : (s.modSite i f).cur = s.cur := rfl
@[simp] theorem State.modSite_ctxs (i : Nat) (f : Site → Site) : (s.modSite i f).ctxs = s.ctxs := rfl
@[simp] theorem State.modSite_agenda (i : Nat) (f : Site → Site) : (s.modSite i f).agenda = s.agenda := rfl
@[simp] theorem State.modSite_deferred (i : Nat) (f : Site → Site) : (s.modSite i f).deferred = s.deferred := rfl
@[simp] theorem State.modSite_streams (i : Nat) (f : Site → Site) : (s.modSite i f).streams = s.streams := rfl
@[simp] theorem State.modSite_fresh (i : Nat) (f : Site → Site) : (s.modSite i f).fresh = s.fresh := rfl
@[simp] theorem State.modSite_powered (i : Nat) (f : Site → Site) : (s.modSite i f).powered = s.powered := rfl
@[simp] theorem State.modSite_dies (i : Nat) (f : Site → Site) : (s.modSite i f).dies = s.dies := rfl
@[simp] theorem State.modSite_edges (i : Nat) (f : Site → Site) : (s.modSite i f).edges = s.edges := rfl
@[simp] theorem State.modSite_chans (i : Nat) (f : Site → Site) : (s.modSite i f).chans = s.chans := rfl
@[simp] theorem State.modSite_hbm (i : Nat) (f : Site → Site) : (s.modSite i f).hbm = s.hbm := rfl
@[simp] theorem State.modSite_hbmPoison (i : Nat) (f : Site → Site) : (s.modSite i f).hbmPoison = s.hbmPoison := rfl
@[simp] theorem State.modSite_reqs (i : Nat) (f : Site → Site) : (s.modSite i f).reqs = s.reqs := rfl
@[simp] theorem State.modSite_transit (i : Nat) (f : Site → Site) : (s.modSite i f).transit = s.transit := rfl
@[simp] theorem State.modSite_clpOut (i : Nat) (f : Site → Site) : (s.modSite i f).clpOut = s.clpOut := rfl
@[simp] theorem State.modSite_clpSent (i : Nat) (f : Site → Site) : (s.modSite i f).clpSent = s.clpSent := rfl
@[simp] theorem State.modSite_inbox (i : Nat) (f : Site → Site) : (s.modSite i f).inbox = s.inbox := rfl
@[simp] theorem State.modSite_tag (i : Nat) (f : Site → Site) : (s.modSite i f).tag = s.tag := rfl
@[simp] theorem State.modSite_astbase (i : Nat) (f : Site → Site) : (s.modSite i f).astbase = s.astbase := rfl
@[simp] theorem State.modSite_invva (i : Nat) (f : Site → Site) : (s.modSite i f).invva = s.invva := rfl
@[simp] theorem State.modSite_invAt (i : Nat) (f : Site → Site) : (s.modSite i f).invAt = s.invAt := rfl
@[simp] theorem State.modSite_invctl (i : Nat) (f : Site → Site) : (s.modSite i f).invctl = s.invctl := rfl
@[simp] theorem State.modSite_invSeq (i : Nat) (f : Site → Site) : (s.modSite i f).invSeq = s.invSeq := rfl
@[simp] theorem State.modSite_invRefused (i : Nat) (f : Site → Site) : (s.modSite i f).invRefused = s.invRefused := rfl
@[simp] theorem State.modSite_invBusy (i : Nat) (f : Site → Site) : (s.modSite i f).invBusy = s.invBusy := rfl
@[simp] theorem State.modSite_devcfg (i : Nat) (f : Site → Site) : (s.modSite i f).devcfg = s.devcfg := rfl
@[simp] theorem State.modSite_routes (i : Nat) (f : Site → Site) : (s.modSite i f).routes = s.routes := rfl
@[simp] theorem State.modSite_queues (i : Nat) (f : Site → Site) : (s.modSite i f).queues = s.queues := rfl
@[simp] theorem State.modSite_bells (i : Nat) (f : Site → Site) : (s.modSite i f).bells = s.bells := rfl
@[simp] theorem State.modSite_ctlEvents (i : Nat) (f : Site → Site) : (s.modSite i f).ctlEvents = s.ctlEvents := rfl
@[simp] theorem State.modSite_groups (i : Nat) (f : Site → Site) : (s.modSite i f).groups = s.groups := rfl
@[simp] theorem State.modSite_launches (i : Nat) (f : Site → Site) : (s.modSite i f).launches = s.launches := rfl
@[simp] theorem State.modSite_tracts (i : Nat) (f : Site → Site) : (s.modSite i f).tracts = s.tracts := rfl
@[simp] theorem State.modSite_nextTract (i : Nat) (f : Site → Site) : (s.modSite i f).nextTract = s.nextTract := rfl
@[simp] theorem State.modSite_orders (i : Nat) (f : Site → Site) : (s.modSite i f).orders = s.orders := rfl
@[simp] theorem State.modSite_rr (i : Nat) (f : Site → Site) : (s.modSite i f).rr = s.rr := rfl
@[simp] theorem State.modSite_reservations (i : Nat) (f : Site → Site) : (s.modSite i f).reservations = s.reservations := rfl
@[simp] theorem State.modSite_images (i : Nat) (f : Site → Site) : (s.modSite i f).images = s.images := rfl
@[simp] theorem State.modSite_saddle (i : Nat) (f : Site → Site) : (s.modSite i f).saddle = s.saddle := rfl
@[simp] theorem State.modSite_persist (i : Nat) (f : Site → Site) : (s.modSite i f).persist = s.persist := rfl
@[simp] theorem State.modSite_repl (i : Nat) (f : Site → Site) : (s.modSite i f).repl = s.repl := rfl
@[simp] theorem State.modSite_attempts (i : Nat) (f : Site → Site) : (s.modSite i f).attempts = s.attempts := rfl
@[simp] theorem State.modSite_steppeDue (i : Nat) (f : Site → Site) : (s.modSite i f).steppeDue = s.steppeDue := rfl
@[simp] theorem State.modSite_outbox (i : Nat) (f : Site → Site) : (s.modSite i f).outbox = s.outbox := rfl

/-! State.modDie changes dies only. -/

@[simp] theorem State.modDie_cur (d : Nat) (f : Die → Die) : (s.modDie d f).cur = s.cur := rfl
@[simp] theorem State.modDie_ctxs (d : Nat) (f : Die → Die) : (s.modDie d f).ctxs = s.ctxs := rfl
@[simp] theorem State.modDie_agenda (d : Nat) (f : Die → Die) : (s.modDie d f).agenda = s.agenda := rfl
@[simp] theorem State.modDie_deferred (d : Nat) (f : Die → Die) : (s.modDie d f).deferred = s.deferred := rfl
@[simp] theorem State.modDie_streams (d : Nat) (f : Die → Die) : (s.modDie d f).streams = s.streams := rfl
@[simp] theorem State.modDie_fresh (d : Nat) (f : Die → Die) : (s.modDie d f).fresh = s.fresh := rfl
@[simp] theorem State.modDie_powered (d : Nat) (f : Die → Die) : (s.modDie d f).powered = s.powered := rfl
@[simp] theorem State.modDie_sites (d : Nat) (f : Die → Die) : (s.modDie d f).sites = s.sites := rfl
@[simp] theorem State.modDie_edges (d : Nat) (f : Die → Die) : (s.modDie d f).edges = s.edges := rfl
@[simp] theorem State.modDie_chans (d : Nat) (f : Die → Die) : (s.modDie d f).chans = s.chans := rfl
@[simp] theorem State.modDie_hbm (d : Nat) (f : Die → Die) : (s.modDie d f).hbm = s.hbm := rfl
@[simp] theorem State.modDie_hbmPoison (d : Nat) (f : Die → Die) : (s.modDie d f).hbmPoison = s.hbmPoison := rfl
@[simp] theorem State.modDie_reqs (d : Nat) (f : Die → Die) : (s.modDie d f).reqs = s.reqs := rfl
@[simp] theorem State.modDie_transit (d : Nat) (f : Die → Die) : (s.modDie d f).transit = s.transit := rfl
@[simp] theorem State.modDie_clpOut (d : Nat) (f : Die → Die) : (s.modDie d f).clpOut = s.clpOut := rfl
@[simp] theorem State.modDie_clpSent (d : Nat) (f : Die → Die) : (s.modDie d f).clpSent = s.clpSent := rfl
@[simp] theorem State.modDie_inbox (d : Nat) (f : Die → Die) : (s.modDie d f).inbox = s.inbox := rfl
@[simp] theorem State.modDie_tag (d : Nat) (f : Die → Die) : (s.modDie d f).tag = s.tag := rfl
@[simp] theorem State.modDie_astbase (d : Nat) (f : Die → Die) : (s.modDie d f).astbase = s.astbase := rfl
@[simp] theorem State.modDie_invva (d : Nat) (f : Die → Die) : (s.modDie d f).invva = s.invva := rfl
@[simp] theorem State.modDie_invAt (d : Nat) (f : Die → Die) : (s.modDie d f).invAt = s.invAt := rfl
@[simp] theorem State.modDie_invctl (d : Nat) (f : Die → Die) : (s.modDie d f).invctl = s.invctl := rfl
@[simp] theorem State.modDie_invSeq (d : Nat) (f : Die → Die) : (s.modDie d f).invSeq = s.invSeq := rfl
@[simp] theorem State.modDie_invRefused (d : Nat) (f : Die → Die) : (s.modDie d f).invRefused = s.invRefused := rfl
@[simp] theorem State.modDie_invBusy (d : Nat) (f : Die → Die) : (s.modDie d f).invBusy = s.invBusy := rfl
@[simp] theorem State.modDie_devcfg (d : Nat) (f : Die → Die) : (s.modDie d f).devcfg = s.devcfg := rfl
@[simp] theorem State.modDie_routes (d : Nat) (f : Die → Die) : (s.modDie d f).routes = s.routes := rfl
@[simp] theorem State.modDie_queues (d : Nat) (f : Die → Die) : (s.modDie d f).queues = s.queues := rfl
@[simp] theorem State.modDie_bells (d : Nat) (f : Die → Die) : (s.modDie d f).bells = s.bells := rfl
@[simp] theorem State.modDie_ctlEvents (d : Nat) (f : Die → Die) : (s.modDie d f).ctlEvents = s.ctlEvents := rfl
@[simp] theorem State.modDie_groups (d : Nat) (f : Die → Die) : (s.modDie d f).groups = s.groups := rfl
@[simp] theorem State.modDie_launches (d : Nat) (f : Die → Die) : (s.modDie d f).launches = s.launches := rfl
@[simp] theorem State.modDie_tracts (d : Nat) (f : Die → Die) : (s.modDie d f).tracts = s.tracts := rfl
@[simp] theorem State.modDie_nextTract (d : Nat) (f : Die → Die) : (s.modDie d f).nextTract = s.nextTract := rfl
@[simp] theorem State.modDie_orders (d : Nat) (f : Die → Die) : (s.modDie d f).orders = s.orders := rfl
@[simp] theorem State.modDie_rr (d : Nat) (f : Die → Die) : (s.modDie d f).rr = s.rr := rfl
@[simp] theorem State.modDie_reservations (d : Nat) (f : Die → Die) : (s.modDie d f).reservations = s.reservations := rfl
@[simp] theorem State.modDie_images (d : Nat) (f : Die → Die) : (s.modDie d f).images = s.images := rfl
@[simp] theorem State.modDie_saddle (d : Nat) (f : Die → Die) : (s.modDie d f).saddle = s.saddle := rfl
@[simp] theorem State.modDie_persist (d : Nat) (f : Die → Die) : (s.modDie d f).persist = s.persist := rfl
@[simp] theorem State.modDie_repl (d : Nat) (f : Die → Die) : (s.modDie d f).repl = s.repl := rfl
@[simp] theorem State.modDie_attempts (d : Nat) (f : Die → Die) : (s.modDie d f).attempts = s.attempts := rfl
@[simp] theorem State.modDie_steppeDue (d : Nat) (f : Die → Die) : (s.modDie d f).steppeDue = s.steppeDue := rfl
@[simp] theorem State.modDie_outbox (d : Nat) (f : Die → Die) : (s.modDie d f).outbox = s.outbox := rfl

/-! State.modTract changes tracts only. -/

@[simp] theorem State.modTract_cur (n : Nat) (f : Tract → Tract) : (s.modTract n f).cur = s.cur := rfl
@[simp] theorem State.modTract_ctxs (n : Nat) (f : Tract → Tract) : (s.modTract n f).ctxs = s.ctxs := rfl
@[simp] theorem State.modTract_agenda (n : Nat) (f : Tract → Tract) : (s.modTract n f).agenda = s.agenda := rfl
@[simp] theorem State.modTract_deferred (n : Nat) (f : Tract → Tract) : (s.modTract n f).deferred = s.deferred := rfl
@[simp] theorem State.modTract_streams (n : Nat) (f : Tract → Tract) : (s.modTract n f).streams = s.streams := rfl
@[simp] theorem State.modTract_fresh (n : Nat) (f : Tract → Tract) : (s.modTract n f).fresh = s.fresh := rfl
@[simp] theorem State.modTract_powered (n : Nat) (f : Tract → Tract) : (s.modTract n f).powered = s.powered := rfl
@[simp] theorem State.modTract_sites (n : Nat) (f : Tract → Tract) : (s.modTract n f).sites = s.sites := rfl
@[simp] theorem State.modTract_dies (n : Nat) (f : Tract → Tract) : (s.modTract n f).dies = s.dies := rfl
@[simp] theorem State.modTract_edges (n : Nat) (f : Tract → Tract) : (s.modTract n f).edges = s.edges := rfl
@[simp] theorem State.modTract_chans (n : Nat) (f : Tract → Tract) : (s.modTract n f).chans = s.chans := rfl
@[simp] theorem State.modTract_hbm (n : Nat) (f : Tract → Tract) : (s.modTract n f).hbm = s.hbm := rfl
@[simp] theorem State.modTract_hbmPoison (n : Nat) (f : Tract → Tract) : (s.modTract n f).hbmPoison = s.hbmPoison := rfl
@[simp] theorem State.modTract_reqs (n : Nat) (f : Tract → Tract) : (s.modTract n f).reqs = s.reqs := rfl
@[simp] theorem State.modTract_transit (n : Nat) (f : Tract → Tract) : (s.modTract n f).transit = s.transit := rfl
@[simp] theorem State.modTract_clpOut (n : Nat) (f : Tract → Tract) : (s.modTract n f).clpOut = s.clpOut := rfl
@[simp] theorem State.modTract_clpSent (n : Nat) (f : Tract → Tract) : (s.modTract n f).clpSent = s.clpSent := rfl
@[simp] theorem State.modTract_inbox (n : Nat) (f : Tract → Tract) : (s.modTract n f).inbox = s.inbox := rfl
@[simp] theorem State.modTract_tag (n : Nat) (f : Tract → Tract) : (s.modTract n f).tag = s.tag := rfl
@[simp] theorem State.modTract_astbase (n : Nat) (f : Tract → Tract) : (s.modTract n f).astbase = s.astbase := rfl
@[simp] theorem State.modTract_invva (n : Nat) (f : Tract → Tract) : (s.modTract n f).invva = s.invva := rfl
@[simp] theorem State.modTract_invAt (n : Nat) (f : Tract → Tract) : (s.modTract n f).invAt = s.invAt := rfl
@[simp] theorem State.modTract_invctl (n : Nat) (f : Tract → Tract) : (s.modTract n f).invctl = s.invctl := rfl
@[simp] theorem State.modTract_invSeq (n : Nat) (f : Tract → Tract) : (s.modTract n f).invSeq = s.invSeq := rfl
@[simp] theorem State.modTract_invRefused (n : Nat) (f : Tract → Tract) : (s.modTract n f).invRefused = s.invRefused := rfl
@[simp] theorem State.modTract_invBusy (n : Nat) (f : Tract → Tract) : (s.modTract n f).invBusy = s.invBusy := rfl
@[simp] theorem State.modTract_devcfg (n : Nat) (f : Tract → Tract) : (s.modTract n f).devcfg = s.devcfg := rfl
@[simp] theorem State.modTract_routes (n : Nat) (f : Tract → Tract) : (s.modTract n f).routes = s.routes := rfl
@[simp] theorem State.modTract_queues (n : Nat) (f : Tract → Tract) : (s.modTract n f).queues = s.queues := rfl
@[simp] theorem State.modTract_bells (n : Nat) (f : Tract → Tract) : (s.modTract n f).bells = s.bells := rfl
@[simp] theorem State.modTract_ctlEvents (n : Nat) (f : Tract → Tract) : (s.modTract n f).ctlEvents = s.ctlEvents := rfl
@[simp] theorem State.modTract_groups (n : Nat) (f : Tract → Tract) : (s.modTract n f).groups = s.groups := rfl
@[simp] theorem State.modTract_launches (n : Nat) (f : Tract → Tract) : (s.modTract n f).launches = s.launches := rfl
@[simp] theorem State.modTract_nextTract (n : Nat) (f : Tract → Tract) : (s.modTract n f).nextTract = s.nextTract := rfl
@[simp] theorem State.modTract_orders (n : Nat) (f : Tract → Tract) : (s.modTract n f).orders = s.orders := rfl
@[simp] theorem State.modTract_rr (n : Nat) (f : Tract → Tract) : (s.modTract n f).rr = s.rr := rfl
@[simp] theorem State.modTract_reservations (n : Nat) (f : Tract → Tract) : (s.modTract n f).reservations = s.reservations := rfl
@[simp] theorem State.modTract_images (n : Nat) (f : Tract → Tract) : (s.modTract n f).images = s.images := rfl
@[simp] theorem State.modTract_saddle (n : Nat) (f : Tract → Tract) : (s.modTract n f).saddle = s.saddle := rfl
@[simp] theorem State.modTract_persist (n : Nat) (f : Tract → Tract) : (s.modTract n f).persist = s.persist := rfl
@[simp] theorem State.modTract_repl (n : Nat) (f : Tract → Tract) : (s.modTract n f).repl = s.repl := rfl
@[simp] theorem State.modTract_attempts (n : Nat) (f : Tract → Tract) : (s.modTract n f).attempts = s.attempts := rfl
@[simp] theorem State.modTract_steppeDue (n : Nat) (f : Tract → Tract) : (s.modTract n f).steppeDue = s.steppeDue := rfl
@[simp] theorem State.modTract_outbox (n : Nat) (f : Tract → Tract) : (s.modTract n f).outbox = s.outbox := rfl

/-! State.putCtx changes ctxs and cur only. -/

@[simp] theorem State.putCtx_agenda (c : Ctx) : (s.putCtx c).agenda = s.agenda := rfl
@[simp] theorem State.putCtx_deferred (c : Ctx) : (s.putCtx c).deferred = s.deferred := rfl
@[simp] theorem State.putCtx_streams (c : Ctx) : (s.putCtx c).streams = s.streams := rfl
@[simp] theorem State.putCtx_fresh (c : Ctx) : (s.putCtx c).fresh = s.fresh := rfl
@[simp] theorem State.putCtx_powered (c : Ctx) : (s.putCtx c).powered = s.powered := rfl
@[simp] theorem State.putCtx_sites (c : Ctx) : (s.putCtx c).sites = s.sites := rfl
@[simp] theorem State.putCtx_dies (c : Ctx) : (s.putCtx c).dies = s.dies := rfl
@[simp] theorem State.putCtx_edges (c : Ctx) : (s.putCtx c).edges = s.edges := rfl
@[simp] theorem State.putCtx_chans (c : Ctx) : (s.putCtx c).chans = s.chans := rfl
@[simp] theorem State.putCtx_hbm (c : Ctx) : (s.putCtx c).hbm = s.hbm := rfl
@[simp] theorem State.putCtx_hbmPoison (c : Ctx) : (s.putCtx c).hbmPoison = s.hbmPoison := rfl
@[simp] theorem State.putCtx_reqs (c : Ctx) : (s.putCtx c).reqs = s.reqs := rfl
@[simp] theorem State.putCtx_transit (c : Ctx) : (s.putCtx c).transit = s.transit := rfl
@[simp] theorem State.putCtx_clpOut (c : Ctx) : (s.putCtx c).clpOut = s.clpOut := rfl
@[simp] theorem State.putCtx_clpSent (c : Ctx) : (s.putCtx c).clpSent = s.clpSent := rfl
@[simp] theorem State.putCtx_inbox (c : Ctx) : (s.putCtx c).inbox = s.inbox := rfl
@[simp] theorem State.putCtx_tag (c : Ctx) : (s.putCtx c).tag = s.tag := rfl
@[simp] theorem State.putCtx_astbase (c : Ctx) : (s.putCtx c).astbase = s.astbase := rfl
@[simp] theorem State.putCtx_invva (c : Ctx) : (s.putCtx c).invva = s.invva := rfl
@[simp] theorem State.putCtx_invAt (c : Ctx) : (s.putCtx c).invAt = s.invAt := rfl
@[simp] theorem State.putCtx_invctl (c : Ctx) : (s.putCtx c).invctl = s.invctl := rfl
@[simp] theorem State.putCtx_invSeq (c : Ctx) : (s.putCtx c).invSeq = s.invSeq := rfl
@[simp] theorem State.putCtx_invRefused (c : Ctx) : (s.putCtx c).invRefused = s.invRefused := rfl
@[simp] theorem State.putCtx_invBusy (c : Ctx) : (s.putCtx c).invBusy = s.invBusy := rfl
@[simp] theorem State.putCtx_devcfg (c : Ctx) : (s.putCtx c).devcfg = s.devcfg := rfl
@[simp] theorem State.putCtx_routes (c : Ctx) : (s.putCtx c).routes = s.routes := rfl
@[simp] theorem State.putCtx_queues (c : Ctx) : (s.putCtx c).queues = s.queues := rfl
@[simp] theorem State.putCtx_bells (c : Ctx) : (s.putCtx c).bells = s.bells := rfl
@[simp] theorem State.putCtx_ctlEvents (c : Ctx) : (s.putCtx c).ctlEvents = s.ctlEvents := rfl
@[simp] theorem State.putCtx_groups (c : Ctx) : (s.putCtx c).groups = s.groups := rfl
@[simp] theorem State.putCtx_launches (c : Ctx) : (s.putCtx c).launches = s.launches := rfl
@[simp] theorem State.putCtx_tracts (c : Ctx) : (s.putCtx c).tracts = s.tracts := rfl
@[simp] theorem State.putCtx_nextTract (c : Ctx) : (s.putCtx c).nextTract = s.nextTract := rfl
@[simp] theorem State.putCtx_orders (c : Ctx) : (s.putCtx c).orders = s.orders := rfl
@[simp] theorem State.putCtx_rr (c : Ctx) : (s.putCtx c).rr = s.rr := rfl
@[simp] theorem State.putCtx_reservations (c : Ctx) : (s.putCtx c).reservations = s.reservations := rfl
@[simp] theorem State.putCtx_images (c : Ctx) : (s.putCtx c).images = s.images := rfl
@[simp] theorem State.putCtx_saddle (c : Ctx) : (s.putCtx c).saddle = s.saddle := rfl
@[simp] theorem State.putCtx_persist (c : Ctx) : (s.putCtx c).persist = s.persist := rfl
@[simp] theorem State.putCtx_repl (c : Ctx) : (s.putCtx c).repl = s.repl := rfl
@[simp] theorem State.putCtx_attempts (c : Ctx) : (s.putCtx c).attempts = s.attempts := rfl
@[simp] theorem State.putCtx_steppeDue (c : Ctx) : (s.putCtx c).steppeDue = s.steppeDue := rfl
@[simp] theorem State.putCtx_outbox (c : Ctx) : (s.putCtx c).outbox = s.outbox := rfl

end

end Sys2Proof.Machine
end

