-- ==== Sys2Proof/Laws/Ops.lean ====
section
/-! SUPPORT. What the shared operations can do, one lemma for each: running a slot, landing results (Ctx.Landed), and
raising a fault (Ctx.Raised). -/
namespace Sys2Proof.Machine
open Host

/-! ### Slots -/

section slots
variable {s : State} {c : Ctx} {g : Guard} {f : Ctx → Ctx}

/-- A slot operation on the context at work. -/
theorem onCur_eq (h : s.cur = some c) : onCur s f = .next (s.working (f c)) := by
  simp [onCur, h, State.working]

/-- Under a true guard it has its effect. -/
theorem slotRun_ok (h : s.cur = some c) (hg : c.guardOk g = true) : slotRun s g f = .next (s.working (f c)) := by
  simp [slotRun, onCur_eq h, Ctx.when, hg]

/-- Under a false guard it changes nothing. -/
theorem slotRun_skip (h : s.cur = some c) (hg : c.guardOk g = false) : slotRun s g f = .next s := by
  cases s; simp_all [slotRun, onCur, Ctx.when]

/-- If a slot operation answers a next state, a context was at work and that state has its result at work. -/
theorem onCur_next {t : State} (h : onCur s f = .next t) : ∃ c, s.cur = some c ∧ t = s.working (f c) := by
  unfold onCur at h
  split at h
  · injection h with h; exact ⟨_, ‹_›, h.symm⟩
  · cases h

end slots

@[simp] theorem State.working_cur (s : State) (c : Ctx) : (s.working c).cur = some c := rfl
@[simp] theorem State.working_ctxs (s : State) (c : Ctx) : (s.working c).ctxs = s.ctxs := rfl
@[simp] theorem State.working_hbm (s : State) (c : Ctx) : (s.working c).hbm = s.hbm := rfl
@[simp] theorem State.working_fresh (s : State) (c : Ctx) : (s.working c).fresh = s.fresh := rfl

/-! ### Faults -/

section faults
variable (c : Ctx) (code sl d : Nat)

@[simp] theorem Ctx.store_fatal (x : Dest) (v : Nat) : (c.store x v).fatal = c.fatal := by
  rcases x with _ | _ | ⟨u, _⟩ | _ | _ | _ | n <;> try rfl
  · cases u <;> rfl
  · simp only [Ctx.store, Ctx.storeCsr]; split <;> rfl

end faults

/-! ### What landing and raising leave alone

Each relation says the whole frame at once: d is c but for the fields named. A field that stays is read off by congrArg. -/

/-- What of a queued M instruction stays when MODE.ARITH is written: all but the setting that its next unit finds. -/
def MEntry.rest (m : MEntry) : MEntry := { m with satNext := false }

/-- d is c but for the registers and control registers that results land in, FAULT, the results in flight, and the setting
that the queued M instructions find. -/
def Ctx.Landed (c d : Ctx) : Prop :=
  d = { c with
    s := d.s, a := d.a, va := d.va, vb := d.vb, p := d.p, f := d.f, b := d.b, mode := d.mode, evmask := d.evmask,
    fault := d.fault, srkey := d.srkey, inflight := d.inflight, mq := d.mq } ∧
  d.mq.map MEntry.rest = c.mq.map MEntry.rest

/-- As Ctx.Landed, but for the fatal report and the issue as well. -/
def Ctx.Raised (c d : Ctx) : Prop :=
  d = { c with
    s := d.s, a := d.a, va := d.va, vb := d.vb, p := d.p, f := d.f, b := d.b, mode := d.mode, evmask := d.evmask,
    fault := d.fault, srkey := d.srkey, inflight := d.inflight, mq := d.mq, fatal := d.fatal, issue := d.issue } ∧
  d.mq.map MEntry.rest = c.mq.map MEntry.rest
theorem Ctx.Landed.refl (c : Ctx) : c.Landed c := ⟨rfl, rfl⟩
theorem Ctx.Landed.trans {c d e : Ctx} (h : c.Landed d) (k : d.Landed e) : c.Landed e := by
  cases c; cases d; cases e
  simp only [Ctx.Landed, Ctx.mk.injEq] at *
  simp_all
theorem Ctx.Raised.refl (c : Ctx) : c.Raised c := ⟨rfl, rfl⟩
theorem Ctx.Raised.trans {c d e : Ctx} (h : c.Raised d) (k : d.Raised e) : c.Raised e := by
  cases c; cases d; cases e
  simp only [Ctx.Raised, Ctx.mk.injEq] at *
  simp_all
theorem Ctx.Landed.raised {c d : Ctx} (h : c.Landed d) : c.Raised d := by
  cases c; cases d
  simp only [Ctx.Landed, Ctx.Raised, Ctx.mk.injEq] at *
  simp_all

section
variable {c d : Ctx}
theorem Ctx.Landed.key (h : c.Landed d) : d.key = c.key := (congrArg (a₁ := d) Ctx.key h.1 :)
theorem Ctx.Landed.site (h : c.Landed d) : d.site = c.site := (congrArg (a₁ := d) Ctx.site h.1 :)
theorem Ctx.Landed.status (h : c.Landed d) : d.status = c.status := (congrArg (a₁ := d) Ctx.status h.1 :)
theorem Ctx.Landed.info (h : c.Landed d) : d.info = c.info := (congrArg (a₁ := d) Ctx.info h.1 :)
theorem Ctx.Landed.part (h : c.Landed d) : d.part = c.part := (congrArg (a₁ := d) Ctx.part h.1 :)
theorem Ctx.Landed.pc (h : c.Landed d) : d.pc = c.pc := (congrArg (a₁ := d) Ctx.pc h.1 :)
theorem Ctx.Landed.xfer (h : c.Landed d) : d.xfer = c.xfer := (congrArg (a₁ := d) Ctx.xfer h.1 :)
theorem Ctx.Landed.aside (h : c.Landed d) : d.aside = c.aside := (congrArg (a₁ := d) Ctx.aside h.1 :)
theorem Ctx.Landed.loops (h : c.Landed d) : d.loops = c.loops := (congrArg (a₁ := d) Ctx.loops h.1 :)
theorem Ctx.Landed.repm (h : c.Landed d) : d.repm = c.repm := (congrArg (a₁ := d) Ctx.repm h.1 :)
theorem Ctx.Landed.ft (h : c.Landed d) : d.ft = c.ft := (congrArg (a₁ := d) Ctx.ft h.1 :)
theorem Ctx.Landed.ma (h : c.Landed d) : d.ma = c.ma := (congrArg (a₁ := d) Ctx.ma h.1 :)
theorem Ctx.Landed.ch (h : c.Landed d) : d.ch = c.ch := (congrArg (a₁ := d) Ctx.ch h.1 :)
theorem Ctx.Landed.mcfg (h : c.Landed d) : d.mcfg = c.mcfg := (congrArg (a₁ := d) Ctx.mcfg h.1 :)
theorem Ctx.Landed.tabA (h : c.Landed d) : d.tabA = c.tabA := (congrArg (a₁ := d) Ctx.tabA h.1 :)
theorem Ctx.Landed.tabB (h : c.Landed d) : d.tabB = c.tabB := (congrArg (a₁ := d) Ctx.tabB h.1 :)
theorem Ctx.Landed.events (h : c.Landed d) : d.events = c.events := (congrArg (a₁ := d) Ctx.events h.1 :)
theorem Ctx.Landed.clock (h : c.Landed d) : d.clock = c.clock := (congrArg (a₁ := d) Ctx.clock h.1 :)
theorem Ctx.Landed.replays (h : c.Landed d) : d.replays = c.replays := (congrArg (a₁ := d) Ctx.replays h.1 :)
theorem Ctx.Landed.grant (h : c.Landed d) : d.grant = c.grant := (congrArg (a₁ := d) Ctx.grant h.1 :)
theorem Ctx.Landed.lm (h : c.Landed d) : d.lm = c.lm := (congrArg (a₁ := d) Ctx.lm h.1 :)
theorem Ctx.Landed.ts (h : c.Landed d) : d.ts = c.ts := (congrArg (a₁ := d) Ctx.ts h.1 :)
theorem Ctx.Landed.as (h : c.Landed d) : d.as = c.as := (congrArg (a₁ := d) Ctx.as h.1 :)
theorem Ctx.Landed.istore (h : c.Landed d) : d.istore = c.istore := (congrArg (a₁ := d) Ctx.istore h.1 :)
theorem Ctx.Landed.sems (h : c.Landed d) : d.sems = c.sems := (congrArg (a₁ := d) Ctx.sems h.1 :)
theorem Ctx.Landed.poisonLm (h : c.Landed d) : d.poisonLm = c.poisonLm := (congrArg (a₁ := d) Ctx.poisonLm h.1 :)
theorem Ctx.Landed.poisonTs (h : c.Landed d) : d.poisonTs = c.poisonTs := (congrArg (a₁ := d) Ctx.poisonTs h.1 :)
theorem Ctx.Landed.poisonAs (h : c.Landed d) : d.poisonAs = c.poisonAs := (congrArg (a₁ := d) Ctx.poisonAs h.1 :)
theorem Ctx.Landed.poisonSem (h : c.Landed d) : d.poisonSem = c.poisonSem := (congrArg (a₁ := d) Ctx.poisonSem h.1 :)
theorem Ctx.Landed.poisonIs (h : c.Landed d) : d.poisonIs = c.poisonIs := (congrArg (a₁ := d) Ctx.poisonIs h.1 :)
theorem Ctx.Landed.issued (h : c.Landed d) : d.issued = c.issued := (congrArg (a₁ := d) Ctx.issued h.1 :)
theorem Ctx.Landed.issue (h : c.Landed d) : d.issue = c.issue := (congrArg (a₁ := d) Ctx.issue h.1 :)
theorem Ctx.Landed.trapPc (h : c.Landed d) : d.trapPc = c.trapPc := (congrArg (a₁ := d) Ctx.trapPc h.1 :)
theorem Ctx.Landed.tretVal (h : c.Landed d) : d.tretVal = c.tretVal := (congrArg (a₁ := d) Ctx.tretVal h.1 :)
theorem Ctx.Landed.sys (h : c.Landed d) : d.sys = c.sys := (congrArg (a₁ := d) Ctx.sys h.1 :)
theorem Ctx.Landed.mq (h : c.Landed d) : d.mq.map MEntry.rest = c.mq.map MEntry.rest := h.2
theorem Ctx.Landed.mmagStep (h : c.Landed d) : d.mmagStep = c.mmagStep := (congrArg (a₁ := d) Ctx.mmagStep h.1 :)
theorem Ctx.Landed.mmagOut (h : c.Landed d) : d.mmagOut = c.mmagOut := (congrArg (a₁ := d) Ctx.mmagOut h.1 :)
theorem Ctx.Landed.mmagIn (h : c.Landed d) : d.mmagIn = c.mmagIn := (congrArg (a₁ := d) Ctx.mmagIn h.1 :)
theorem Ctx.Landed.ops (h : c.Landed d) : d.ops = c.ops := (congrArg (a₁ := d) Ctx.ops h.1 :)
theorem Ctx.Landed.rels (h : c.Landed d) : d.rels = c.rels := (congrArg (a₁ := d) Ctx.rels h.1 :)
theorem Ctx.Landed.latom (h : c.Landed d) : d.latom = c.latom := (congrArg (a₁ := d) Ctx.latom h.1 :)
theorem Ctx.Landed.fatal (h : c.Landed d) : d.fatal = c.fatal := (congrArg (a₁ := d) Ctx.fatal h.1 :)
theorem Ctx.Landed.trapCode (h : c.Landed d) : d.trapCode = c.trapCode := (congrArg (a₁ := d) Ctx.trapCode h.1 :)
theorem Ctx.Landed.yielded (h : c.Landed d) : d.yielded = c.yielded := (congrArg (a₁ := d) Ctx.yielded h.1 :)

end

section
variable {c d : Ctx}
theorem Ctx.Raised.key (h : c.Raised d) : d.key = c.key := (congrArg (a₁ := d) Ctx.key h.1 :)
theorem Ctx.Raised.site (h : c.Raised d) : d.site = c.site := (congrArg (a₁ := d) Ctx.site h.1 :)
theorem Ctx.Raised.status (h : c.Raised d) : d.status = c.status := (congrArg (a₁ := d) Ctx.status h.1 :)
theorem Ctx.Raised.info (h : c.Raised d) : d.info = c.info := (congrArg (a₁ := d) Ctx.info h.1 :)
theorem Ctx.Raised.part (h : c.Raised d) : d.part = c.part := (congrArg (a₁ := d) Ctx.part h.1 :)
theorem Ctx.Raised.pc (h : c.Raised d) : d.pc = c.pc := (congrArg (a₁ := d) Ctx.pc h.1 :)
theorem Ctx.Raised.xfer (h : c.Raised d) : d.xfer = c.xfer := (congrArg (a₁ := d) Ctx.xfer h.1 :)
theorem Ctx.Raised.aside (h : c.Raised d) : d.aside = c.aside := (congrArg (a₁ := d) Ctx.aside h.1 :)
theorem Ctx.Raised.loops (h : c.Raised d) : d.loops = c.loops := (congrArg (a₁ := d) Ctx.loops h.1 :)
theorem Ctx.Raised.repm (h : c.Raised d) : d.repm = c.repm := (congrArg (a₁ := d) Ctx.repm h.1 :)
theorem Ctx.Raised.ft (h : c.Raised d) : d.ft = c.ft := (congrArg (a₁ := d) Ctx.ft h.1 :)
theorem Ctx.Raised.ma (h : c.Raised d) : d.ma = c.ma := (congrArg (a₁ := d) Ctx.ma h.1 :)
theorem Ctx.Raised.ch (h : c.Raised d) : d.ch = c.ch := (congrArg (a₁ := d) Ctx.ch h.1 :)
theorem Ctx.Raised.mcfg (h : c.Raised d) : d.mcfg = c.mcfg := (congrArg (a₁ := d) Ctx.mcfg h.1 :)
theorem Ctx.Raised.tabA (h : c.Raised d) : d.tabA = c.tabA := (congrArg (a₁ := d) Ctx.tabA h.1 :)
theorem Ctx.Raised.tabB (h : c.Raised d) : d.tabB = c.tabB := (congrArg (a₁ := d) Ctx.tabB h.1 :)
theorem Ctx.Raised.events (h : c.Raised d) : d.events = c.events := (congrArg (a₁ := d) Ctx.events h.1 :)
theorem Ctx.Raised.clock (h : c.Raised d) : d.clock = c.clock := (congrArg (a₁ := d) Ctx.clock h.1 :)
theorem Ctx.Raised.replays (h : c.Raised d) : d.replays = c.replays := (congrArg (a₁ := d) Ctx.replays h.1 :)
theorem Ctx.Raised.grant (h : c.Raised d) : d.grant = c.grant := (congrArg (a₁ := d) Ctx.grant h.1 :)
theorem Ctx.Raised.lm (h : c.Raised d) : d.lm = c.lm := (congrArg (a₁ := d) Ctx.lm h.1 :)
theorem Ctx.Raised.ts (h : c.Raised d) : d.ts = c.ts := (congrArg (a₁ := d) Ctx.ts h.1 :)
theorem Ctx.Raised.as (h : c.Raised d) : d.as = c.as := (congrArg (a₁ := d) Ctx.as h.1 :)
theorem Ctx.Raised.istore (h : c.Raised d) : d.istore = c.istore := (congrArg (a₁ := d) Ctx.istore h.1 :)
theorem Ctx.Raised.sems (h : c.Raised d) : d.sems = c.sems := (congrArg (a₁ := d) Ctx.sems h.1 :)
theorem Ctx.Raised.poisonLm (h : c.Raised d) : d.poisonLm = c.poisonLm := (congrArg (a₁ := d) Ctx.poisonLm h.1 :)
theorem Ctx.Raised.poisonTs (h : c.Raised d) : d.poisonTs = c.poisonTs := (congrArg (a₁ := d) Ctx.poisonTs h.1 :)
theorem Ctx.Raised.poisonAs (h : c.Raised d) : d.poisonAs = c.poisonAs := (congrArg (a₁ := d) Ctx.poisonAs h.1 :)
theorem Ctx.Raised.poisonSem (h : c.Raised d) : d.poisonSem = c.poisonSem := (congrArg (a₁ := d) Ctx.poisonSem h.1 :)
theorem Ctx.Raised.poisonIs (h : c.Raised d) : d.poisonIs = c.poisonIs := (congrArg (a₁ := d) Ctx.poisonIs h.1 :)
theorem Ctx.Raised.issued (h : c.Raised d) : d.issued = c.issued := (congrArg (a₁ := d) Ctx.issued h.1 :)
theorem Ctx.Raised.trapPc (h : c.Raised d) : d.trapPc = c.trapPc := (congrArg (a₁ := d) Ctx.trapPc h.1 :)
theorem Ctx.Raised.tretVal (h : c.Raised d) : d.tretVal = c.tretVal := (congrArg (a₁ := d) Ctx.tretVal h.1 :)
theorem Ctx.Raised.sys (h : c.Raised d) : d.sys = c.sys := (congrArg (a₁ := d) Ctx.sys h.1 :)
theorem Ctx.Raised.mq (h : c.Raised d) : d.mq.map MEntry.rest = c.mq.map MEntry.rest := h.2
theorem Ctx.Raised.mmagStep (h : c.Raised d) : d.mmagStep = c.mmagStep := (congrArg (a₁ := d) Ctx.mmagStep h.1 :)
theorem Ctx.Raised.mmagOut (h : c.Raised d) : d.mmagOut = c.mmagOut := (congrArg (a₁ := d) Ctx.mmagOut h.1 :)
theorem Ctx.Raised.mmagIn (h : c.Raised d) : d.mmagIn = c.mmagIn := (congrArg (a₁ := d) Ctx.mmagIn h.1 :)
theorem Ctx.Raised.ops (h : c.Raised d) : d.ops = c.ops := (congrArg (a₁ := d) Ctx.ops h.1 :)
theorem Ctx.Raised.rels (h : c.Raised d) : d.rels = c.rels := (congrArg (a₁ := d) Ctx.rels h.1 :)
theorem Ctx.Raised.latom (h : c.Raised d) : d.latom = c.latom := (congrArg (a₁ := d) Ctx.latom h.1 :)
theorem Ctx.Raised.trapCode (h : c.Raised d) : d.trapCode = c.trapCode := (congrArg (a₁ := d) Ctx.trapCode h.1 :)
theorem Ctx.Raised.yielded (h : c.Raised d) : d.yielded = c.yielded := (congrArg (a₁ := d) Ctx.yielded h.1 :)

end

theorem Ctx.store_landed (c : Ctx) (x : Dest) (v : Nat) : c.Landed (c.store x v) := by
  rcases x with _ | _ | ⟨u, _⟩ | _ | _ | _ | n <;> try exact ⟨rfl, rfl⟩
  · cases u <;> exact ⟨rfl, rfl⟩
  · simp only [Ctx.store, Ctx.storeCsr]; split <;> exact ⟨rfl, rfl⟩

/-- What a write of MODE.ARITH brings the queued M instructions (R112, R232). -/
theorem Ctx.spreadArith_landed (c : Ctx) (x : Dest) (n : Nat) : c.Landed (c.spreadArith x n) := by
  unfold Ctx.spreadArith
  split
  · refine ⟨rfl, ?_⟩
    simp only [List.map_map]
    congr 1
    funext m
    by_cases h : m.bundle + 1 < n <;> simp [MEntry.rest, h]
  · exact .refl c

theorem Ctx.landOne_landed (c : Ctx) (e : InFlight) : c.Landed (c.landOne e) := by
  have h : ∀ x : Ctx, x.Landed { x with fault := x.fault ||| ((e.flags.zeroExtend 64) <<< (59 : Nat)) } := fun _ => ⟨rfl, rfl⟩
  unfold Ctx.landOne
  cases e.dst with
  | none => exact h c
  | some d => exact ((c.store_landed d e.val).trans (Ctx.spreadArith_landed _ _ _)).trans (h _)

theorem Ctx.foldl_landed (es : List InFlight) (c : Ctx) : c.Landed (es.foldl Ctx.landOne c) := by
  induction es generalizing c with
  | nil => exact .refl c
  | cons e es ih => exact (c.landOne_landed e).trans (ih _)

/-- What landing some results changes. -/
theorem Ctx.landWhere_landed (c : Ctx) (f : InFlight → Bool) : c.Landed (c.landWhere f) :=
  Ctx.Landed.trans (d := { c with
    inflight := (settleBefore (fun e : InFlight => !e.held && f e) c.inflight).filter fun e => !(!e.held && f e) }) ⟨rfl, rfl⟩
    (Ctx.foldl_landed _ _)

theorem Ctx.landAll_landed (c : Ctx) : c.Landed c.landAll := c.landWhere_landed _
theorem Ctx.landDue_landed (c : Ctx) : c.Landed c.landDue := c.landWhere_landed _

theorem Ctx.undefine_landed (c : Ctx) (e : InFlight) (n : Nat) : c.Landed (c.undefine e n) := by
  unfold Ctx.undefine
  split
  · split
    · exact c.store_landed _ _
    · exact .refl c
  · exact .refl c

theorem Ctx.undefineAll_landed (es : List InFlight) (c : Ctx) (n : Nat) : c.Landed (c.undefineAll es n) := by
  induction es generalizing c n with
  | nil => exact .refl c
  | cons e es ih => exact (c.undefine_landed e n).trans (ih _ _)

/-- What a fatal report changes. -/
theorem Ctx.fatalReport_raised (c : Ctx) (r : Report) : c.Raised (c.fatalReport r) :=
  c.landAll_landed.raised.trans ⟨rfl, rfl⟩

/-- What raising a bundle-precise fault changes. -/
theorem Ctx.raise_raised (c : Ctx) (code sl x : Nat) : c.Raised (c.raise code sl x) :=
  (c.fatalReport_raised _).trans ⟨rfl, rfl⟩

@[simp] theorem Ctx.raise_issue (c : Ctx) (code sl x : Nat) : (c.raise code sl x).issue.raised = .fault := rfl
@[simp] theorem Ctx.push_def (c : Ctx) (x : Dest) (v l : Nat) : c.pushF x v l 0 = c.push x v l := rfl

/-- A result put in flight changes nothing else. -/
theorem Ctx.pushHeld_landed (c : Ctx) (x : Dest) (v l : Nat) (fl : Flags) (h : Bool) : c.Landed (c.pushHeld x v l fl h) := ⟨rfl, rfl⟩
theorem Ctx.pushF_landed (c : Ctx) (x : Dest) (v l : Nat) (fl : Flags) : c.Landed (c.pushF x v l fl) := ⟨rfl, rfl⟩
theorem Ctx.push_landed (c : Ctx) (x : Dest) (v l : Nat) : c.Landed (c.push x v l) := ⟨rfl, rfl⟩

/-! ### What a store to LM leaves alone -/

/-- d is c but for LM, its poison marks, the operations in the engines, and the loads in flight, whose values are settled. -/
def Ctx.Stored (c d : Ctx) : Prop := d = { c with lm := d.lm, poisonLm := d.poisonLm, ops := d.ops, inflight := d.inflight }

theorem Ctx.Stored.refl (c : Ctx) : c.Stored c := rfl
theorem Ctx.Stored.trans {c d e : Ctx} (h : c.Stored d) (k : d.Stored e) : c.Stored e := by
  cases c; cases d; cases e
  simp only [Ctx.Stored, Ctx.mk.injEq] at *
  simp_all

theorem Ctx.ratomNow_stored (c : Ctx) (o : Op) : c.Stored (c.ratomNow o) := by
  unfold Ctx.ratomNow
  dsimp only
  split
  · rfl
  · split <;> split <;> rfl

theorem Ctx.foldl_stored (os : List Op) (c : Ctx) : c.Stored (os.foldl Ctx.ratomNow c) := by
  induction os generalizing c with
  | nil => exact .refl c
  | cons o os ih => exact (c.ratomNow_stored o).trans (ih _)

theorem Ctx.settleLoads_stored (c : Ctx) : c.Stored c.settleLoads := rfl

/-- What an L-slot store changes. -/
theorem Ctx.lmStore_stored (c : Ctx) (n off : Nat) (bs : List Byte) : c.Stored (c.lmStore n off bs) :=
  (c.settleLoads_stored.trans (Ctx.foldl_stored _ _)).trans rfl

/-- What a LATOM changes. -/
theorem Ctx.lmAtomic_stored (c : Ctx) (b : Nat) (t : AtomTy) (op : AtomOp) (off v x : Nat) :
    c.Stored (c.lmAtomic b t op off v x).2 := by
  unfold Ctx.lmAtomic
  dsimp only
  split
  · exact (c.settleLoads_stored.trans (Ctx.foldl_stored _ _)).trans (Ctx.lmStore_stored _ _ _ _)
  · exact c.settleLoads_stored.trans (Ctx.foldl_stored _ _)

end Sys2Proof.Machine
end

