-- ==== Sys2Proof/Laws/Events.lean ====
section
/-! SUPPORT. What the shared operations of the events can do: answering a state, the dies, sites, edges and channels after a
change of one of them, the event bits of many contexts, clocks and regulators, and what a step notes of tracts. -/
namespace Sys2Proof.Machine
open Host

/-- An event that may find nothing to do still answers a state. -/
theorem orStay_next (s : State) (o : Option State) : orStay s o = .next (o.getD s) := by cases o <;> rfl

section lookups
variable (s : State)

theorem die_modDie (d : Nat) (f : Die → Die) (h : d < s.dies.length) : (s.modDie d f).die d = f (s.die d) := by
  simp [State.die, State.modDie, modAt, List.getD, h]

theorem die_modDie_ne (d k : Nat) (f : Die → Die) (h : k ≠ d) : (s.modDie d f).die k = s.die k := by
  simp [State.die, State.modDie, modAt, List.getD, Ne.symm h]

theorem site_modSite (i : Nat) (f : Site → Site) (h : i < s.sites.length) : (s.modSite i f).site i = f (s.site i) := by
  simp [State.site, State.modSite, modAt, List.getD, h]

theorem site_modSite_ne (i k : Nat) (f : Site → Site) (h : k ≠ i) : (s.modSite i f).site k = s.site k := by
  simp [State.site, State.modSite, modAt, List.getD, Ne.symm h]

theorem edge_modEdge (e : Nat) (f : Edge → Edge) (h : e < s.edges.length) : (s.modEdge e f).edge e = f (s.edge e) := by
  simp [State.edge, State.modEdge, modAt, List.getD, h]

theorem edge_modEdge_ne (e k : Nat) (f : Edge → Edge) (h : k ≠ e) : (s.modEdge e f).edge k = s.edge k := by
  simp [State.edge, State.modEdge, modAt, List.getD, Ne.symm h]

theorem chan_modChan (ch : Nat) (f : Chan → Chan) (h : ch < s.chans.length) : (s.modChan ch f).chan ch = f (s.chan ch) := by
  simp [State.chan, State.modChan, modAt, List.getD, h]

theorem chan_modChan_ne (ch k : Nat) (f : Chan → Chan) (h : k ≠ ch) : (s.modChan ch f).chan k = s.chan k := by
  simp [State.chan, State.modChan, modAt, List.getD, Ne.symm h]

end lookups

/-- What setting event bits leaves: everything but contexts and HBM. -/
def State.SameModule (s t : State) : Prop :=
  t.dies = s.dies ∧ t.sites = s.sites ∧ t.edges = s.edges ∧ t.chans = s.chans ∧ t.saddle = s.saddle ∧ t.tracts = s.tracts ∧
    t.launches = s.launches ∧ t.queues = s.queues ∧ t.repl = s.repl ∧ t.outbox = s.outbox

theorem State.SameModule.trans {s t u : State} (h : s.SameModule t) (k : t.SameModule u) : s.SameModule u := by
  simp_all [State.SameModule]

theorem eventAt_same (s : State) (n : Nat) (k : CtxKey) : s.SameModule (s.eventAt n k) := by
  unfold State.eventAt State.SameModule
  split
  · split
    · split
      · split
        · unfold State.eventIn
          split <;> simp [State.hbmSet]
        · simp [State.modCtx]
      · simp
    · simp [State.modCtx]
  · simp

/-- What every step of a fold keeps, the fold keeps. -/
theorem foldl_keeps {α β : Type} (P : β → Prop) (f : β → α → β) (xs : List α) (b : β) (h0 : P b)
    (h : ∀ b x, P b → P (f b x)) : P (xs.foldl f b) := by
  induction xs generalizing b with
  | nil => exact h0
  | cons x xs ih => exact ih _ (h _ _ h0)

theorem eventAll_same (s : State) (n : Nat) (f : Ctx → Bool) : s.SameModule (s.eventAll n f) :=
  foldl_keeps s.SameModule (fun (t : State) (c : Ctx) => t.eventAt n c.key) _ s (by simp [State.SameModule])
    fun t c h => h.trans (eventAt_same t n c.key)

/-! ### Clocks and regulators (R301), and what a step notes first (R347, R363) -/

theorem regulate_frame (s : State) (i : Nat) : s.regulate i = { s with sites := (s.regulate i).sites } := rfl

/-- Steps cover themselves, and the greater of two steps covers both. -/
theorem covers_self (xs : List Nat) : covers xs xs = true := by
  induction xs with
  | nil => rfl
  | cons x xs ih => simpa [covers] using ih

theorem covers_maxSteps (xs ys : List Nat) : covers (maxSteps xs ys) xs = true ∧ covers (maxSteps xs ys) ys = true := by
  induction xs generalizing ys with
  | nil => simp [covers, maxSteps]
  | cons x xs ih =>
    cases ys with
    | nil => simp [covers, maxSteps]
    | cons y ys =>
      have h := ih ys
      simp only [covers, maxSteps] at h
      exact ⟨by simp [covers, maxSteps, h.1, Nat.le_max_left], by simp [covers, maxSteps, h.2, Nat.le_max_right]⟩

/-- What one move of a site's clocks and regulator can do: the voltage rises, or the clocks take steps that it covers, or it falls
behind them. -/
theorem Site.regulate_cases (x : Site) (due now : List Nat) :
    x.regulate due now = { x with volt := maxSteps x.volt due } ∨
    (covers x.volt due = true ∧ x.regulate due now = { x with clock := now }) ∨
    (x.clock = now ∧ x.regulate due now = { x with volt := due }) := by
  unfold Site.regulate
  split
  · exact .inl rfl
  · split
    · exact .inr (.inl ⟨by simp_all, rfl⟩)
    · exact .inr (.inr ⟨by simp_all, rfl⟩)

theorem wakeSites_frame (s : State) (xs : List Nat) : s.wakeSites xs = { s with sites := (s.wakeSites xs).sites } := by
  unfold State.wakeSites
  refine foldl_keeps (fun t => t = { s with sites := t.sites }) _ _ s rfl fun t x h => ?_
  rw [h]
  rfl

theorem receive_frame (s : State) : s.receive = { s with tracts := s.receive.tracts } := rfl

/-- A step notes no more of a tract than its cause. -/
theorem noteEnd_frame (s : State) (t : Tract) : s.noteEnd t = { t with cause := (s.noteEnd t).cause } := by
  unfold State.noteEnd
  split
  · split <;> rfl
  · rfl

end Sys2Proof.Machine
end

