-- ==== Sys2Proof/Tests/Slice0.lean ====
section
/-! SUPPORT. Tests: ill-formed terms, words written out from the spec's encodings, single steps with results worked out
from the spec, and for each obligation with hypotheses a state that meets them. -/
namespace Sys2Proof.Tests
set_option Elab.async false
open Sys2Proof Sys2Proof.Machine Host

/-! ### Well-formedness: an ill-formed term for each check -/

/-- The guard that is always met: f0 reads true (R131). -/
def t0 : Guard := ⟨false, 0⟩

theorem test_wf_ill : ([
  (.evwait t0 0, .resOpnd), (.evclr t0 32, .resOpnd), (.shli t0 1 1 64, .resOpnd), (.cmp t0 0 .eq 1 2, .resOpnd),
  (.cmpi t0 1 .un 1 2, .resOpnd), (.fcmp t0 1 .ltz 1 2, .resOpnd), (.flop t0 0 1 2 3, .resOpnd),
  (.fcvt t0 1 2 .f32 .s32 .sr, .resOpnd), (.fcvt t0 1 2 .s32 .z64 .rne, .resOpnd), (.csrr t0 1 0x11, .resOpnd),
  (.csrw t0 1 0x11, .resOpnd), (.csrw t0 1 0x08, .illInsn), (.vand .va t0 1 2 3 24, .resOpnd),
  (.vmov .vb t0 1 2 31, .resOpnd)] : List (Instr × Flaw)).all (fun p => p.1.flaw == some p.2) = true := by decide

theorem test_wf_ill_vector : ([
  (.vadd .va t0 .s64 1 2 3 0, .illInsn), (.vadd .va t0 .s8 1 2 3 24, .resOpnd), (.vabs .va t0 .z8 1 2 0, .illInsn),
  (.vcmp .va t0 .s8 24 1 2 .eq, .resOpnd), (.vcmp .va t0 .s8 1 1 2 .tst, .resOpnd), (.viota .va t0 .s16 1 2 0, .illInsn),
  (.vperm .vb t0 .s8 1 2 3 0, .illInsn), (.vmovs .va t0 .s32 1 2 64, .resOpnd), (.vfadd .va t0 .e4m3 1 2 3 0, .illInsn),
  (.vfcmp .va t0 .f32 1 2 3 .tst, .resOpnd), (.vsfu .va t0 .rcp 1 2 24, .resOpnd), (.vcomb .va t0 1 2 3 23, .resOpnd),
  (.vcvt .va t0 .s32 (.fp .f32) .sr 1 2 0, .resOpnd), (.vcvt .va t0 (.fp .e4m3) (.fp .e4m3) .rne 1 2 0, .resOpnd),
  (.vqnt .va t0 .f32 1 2 0, .illInsn), (.plogic .va t0 1 2 24 3, .resOpnd), (.pset .va t0 1 257, .resOpnd),
  (.vany .va t0 0 1, .resOpnd)] : List (Instr × Flaw)).all (fun p => p.1.flaw == some p.2) = true := by decide

theorem test_wf_ill_memory : ([
  (.mopen t0 0 1 2 5 0, .resOpnd), (.mopen t0 0 1 2 4 1, .resOpnd), (.mout t0 1 2 .f32 .sr, .resOpnd),
  (.mcfg t0 16, .resOpnd), (.mma t0 .bf16 0 1 2 1 0, .resOpnd), (.pld t0 24 1 2, .resOpnd),
  (.vgth t0 .s16 .va 1 2 3, .illInsn), (.sst t0 .s16 1 2 3, .illInsn), (.atom t0 .z32 .cas 1 2 3 .relaxed, .resOpnd)]
  : List (Instr × Flaw)).all (fun p => p.1.flaw == some p.2) = true := by decide

/-! ### Words (Tables 6.7 to 6.20) -/

/-- Each word of a list decodes in its slot to the instruction beside it. -/
def decodesAll (xs : List (Word32 × Slot × Instr)) : Bool := xs.all fun p => decodeSlot p.2.1 p.1 == .ok p.2.2

theorem test_words_B1 : decodesAll [
  (0x0000_0000, .B, .nop),
  (0x0162_F863, .B, .xim 6 194659),
  (0x0277_0190, .B, .bpre ⟨false, 7⟩ 3 65936),
  (0x03A1_E800, .B, .bpres ⟨true, 2⟩ 0 61),
  (0x045A_0000, .B, .br ⟨false, 5⟩ 5),
  (0x0584_0000, .B, .call ⟨true, 0⟩ 2),
  (0x0630_0000, .B, .ret ⟨false, 3⟩),
  (0x07EF_4F72, .B, .loop ⟨true, 6⟩ 61 3954),
  (0x071A_AF80, .B, .loopReg ⟨false, 1⟩ 42 31),
  (0x08C2_7D57, .B, .repm ⟨true, 4⟩ 163159),
  (0x0878_8000, .B, .repmReg ⟨false, 7⟩ 4),
  (0x09AB_1268, .B, .wait ⟨true, 2⟩ 177 38 true),
  (0x0A5D_E548, .B, .waitd ⟨false, 5⟩ 222 84 true),
  (0x0B80_C81E, .B, .sig ⟨true, 0⟩ 12 129 .dom true)] = true := by decide

theorem test_words_B2 : decodesAll [
  (0x0C33_9FAE, .B, .semset ⟨false, 3⟩ 57 4014),
  (0x0DE0_0010, .B, .evwait ⟨true, 6⟩ 16),
  (0x0E10_0009, .B, .evclr ⟨false, 1⟩ 9),
  (0x0FC0_8000, .B, .fence ⟨true, 4⟩ .die),
  (0x107B_8000, .B, .fni ⟨false, 7⟩ 5 .dom),
  (0x11A6_0000, .B, .fnw ⟨true, 2⟩ 3),
  (0x1250_E248, .B, .trap ⟨false, 5⟩ 57928),
  (0x138D_4000, .B, .tret ⟨true, 0⟩ 53),
  (0x1430_F4A2, .B, .sys ⟨false, 3⟩ 62626),
  (0x15E0_0000, .B, .yield ⟨true, 6⟩),
  (0x1610_0000, .B, .exit ⟨false, 1⟩)] = true := by decide

theorem test_words_S1 : decodesAll [
  (0x01CA_9F50, .S, .add ⟨true, 4⟩ 42 31 20),
  (0x0275_CC04, .S, .sub ⟨false, 7⟩ 23 12 1),
  (0x03A1_39B8, .S, .mul ⟨true, 2⟩ 4 57 46),
  (0x045C_666C, .S, .mulh ⟨false, 5⟩ 49 38 27),
  (0x0587_9324, .S, .mulhz ⟨true, 0⟩ 30 19 9),
  (0x0632_C1D8, .S, .div ⟨false, 3⟩ 11 1 54),
  (0x07EE_6E8C, .S, .divz ⟨true, 6⟩ 57 46 35),
  (0x0819_9B40, .S, .rem ⟨false, 1⟩ 38 27 16),
  (0x09C4_C8F4, .S, .remz ⟨true, 4⟩ 19 8 61),
  (0x0A70_35A8, .S, .and ⟨false, 7⟩ 0 53 42),
  (0x0BAB_6260, .S, .or ⟨true, 2⟩ 45 34 24),
  (0x0C56_9014, .S, .xor ⟨false, 5⟩ 26 16 5),
  (0x0D81_FDC8, .S, .shl ⟨true, 0⟩ 7 61 50),
  (0x0E3D_6A7C, .S, .shr ⟨false, 3⟩ 53 42 31)] = true := by decide

theorem test_words_S2 : decodesAll [
  (0x0FE8_9730, .S, .sra ⟨true, 6⟩ 34 23 12),
  (0x1013_C4E4, .S, .min ⟨false, 1⟩ 15 4 57),
  (0x11CF_319C, .S, .max ⟨true, 4⟩ 60 49 39),
  (0x127A_5F50, .S, .minz ⟨false, 7⟩ 41 31 20),
  (0x13A5_8C04, .S, .maxz ⟨true, 2⟩ 22 12 1),
  (0x1851_396E, .S, .addi ⟨false, 5⟩ 4 57 110),
  (0x198C_669B, .S, .andi ⟨true, 0⟩ 49 38 155),
  (0x1A37_93C8, .S, .ori ⟨false, 3⟩ 30 19 200),
  (0x1BE2_C0F6, .S, .xori ⟨true, 6⟩ 11 0 246),
  (0x1C1E_2E3F, .S, .shli ⟨false, 1⟩ 56 46 63),
  (0x1DC9_5B01, .S, .shri ⟨true, 4⟩ 37 27 1),
  (0x1E74_C820, .S, .srai ⟨false, 7⟩ 19 8 32),
  (0x20A6_953E, .S, .cmp ⟨true, 2⟩ 3 .le 42 31),
  (0x2158_ABCD, .S, .cmpi ⟨false, 5⟩ 4 .gt 23 77)] = true := by decide

theorem test_words_S3 : decodesAll [
  (0x228B_ED00, .S, .flop ⟨true, 0⟩ 5 7 5 10),
  (0x2331_FC97, .S, .sel ⟨false, 3⟩ 7 60 18 7),
  (0x24ED_27EA, .S, .movi ⟨true, 6⟩ 52 10218),
  (0x2518_B117, .S, .movhi ⟨false, 1⟩ 34 12567),
  (0x26C3_C400, .S, .clz ⟨true, 4⟩ 15 4),
  (0x277F_3100, .S, .popc ⟨false, 7⟩ 60 49),
  (0x28AA_5E50, .S, .bfx ⟨true, 2⟩ 41 30 20),
  (0x2955_8B04, .S, .bfi ⟨false, 5⟩ 22 11 1),
  (0x3080_F9B8, .S, .fadd ⟨true, 0⟩ 3 57 46),
  (0x313C_666C, .S, .fsub ⟨false, 3⟩ 49 38 27),
  (0x32E7_9320, .S, .fmul ⟨true, 6⟩ 30 19 8),
  (0x3315_82AB, .S, .fma ⟨false, 1⟩ 11 0 21 11),
  (0x34CE_2D8C, .S, .fdiv ⟨true, 4⟩ 56 45 35),
  (0x3579_5A00, .S, .fsqrt ⟨false, 7⟩ 37 26)] = true := by decide

theorem test_words_S4 : decodesAll [
  (0x36AB_BEE4, .S, .fcmp ⟨true, 2⟩ 5 .ord 61 50),
  (0x3750_3505, .S, .fcvt ⟨false, 5⟩ 0 53 .f32 .f16 .rtz),
  (0x3886_C400, .S, .movsa ⟨true, 0⟩ 13 34),
  (0x3936_9E00, .S, .movas ⟨false, 3⟩ 26 15),
  (0x3AEF_3100, .S, .movsv ⟨true, 6⟩ .vb 28 49),
  (0x3B1D_03C0, .S, .csrr ⟨false, 1⟩ 52 15),
  (0x3CC8_4340, .S, .csrw ⟨true, 4⟩ 33 13),
  (0x3D73_D100, .S, .semrd ⟨false, 7⟩ 15 68)] = true := by decide

theorem test_words_V1 : decodesAll [
  (0x01AE_44CF, .VA, .vand .va ⟨true, 2⟩ 28 17 6 15),
  (0x0254_FA74, .VB, .vor .vb ⟨false, 5⟩ 9 30 19 20),
  (0x038B_2C01, .VA, .vxor .va ⟨true, 0⟩ 22 11 0 1),
  (0x0431_E017, .VB, .vmov .vb ⟨false, 3⟩ 3 24 23),
  (0x05E8_1B6B, .VA, .vsel .va ⟨true, 6⟩ 16 6 27 11),
  (0x061F_2A69, .VB, .vsplat .vb ⟨false, 1⟩ 30 339 9),
  (0x07C5_800E, .VA, .vxf .va ⟨true, 4⟩ 11 0 14),
  (0x0E76_8B09, .VB, .vadd .vb ⟨false, 7⟩ .z32 13 2 24 9),
  (0x16AD_3CAE, .VA, .vsub .va ⟨true, 2⟩ .z32 26 15 5 14),
  (0x1853_F653, .VB, .vmul .vb ⟨false, 5⟩ .s8 7 29 18 19),
  (0x258A_ABE0, .VA, .vmulh .va ⟨true, 0⟩ .z16 21 10 31 0),
  (0x2A31_5D85, .VB, .vmin .vb ⟨false, 3⟩ .s32 2 23 12 5),
  (0x34E7_932A, .VA, .vmax .va ⟨true, 6⟩ .z8 15 4 25 10),
  (0x3D1E_44CF, .VB, .vshl .vb ⟨false, 1⟩ .z16 28 17 6 15)] = true := by decide

theorem test_words_V2 : decodesAll [
  (0x46C4_FA94, .VA, .vshr .va ⟨true, 4⟩ .z32 9 30 20 20),
  (0x487B_3021, .VB, .vsra .vb ⟨false, 7⟩ .s8 22 12 1 1),
  (0x51A2_6417, .VA, .vabs .va ⟨true, 2⟩ .s16 4 25 23),
  (0x5A57_1B6A, .VB, .vcmp .vb ⟨false, 5⟩ .s32 14 6 27 .gt),
  (0x658F_2269, .VA, .viota .va ⟨true, 0⟩ .z16 30 275 9),
  (0x6E35_82B5, .VB, .vtrn .vb ⟨false, 3⟩ .z32 11 0 21 21),
  (0x74EC_3462, .VA, .vperm .va ⟨true, 6⟩ .z8 24 13 3 2),
  (0x7C19_77FE, .VB, .vmovs .vb ⟨false, 1⟩ .z8 37 27 255),
  (0x81C9_A3AC, .VA, .vfadd .va ⟨true, 4⟩ .f16 19 8 29 12),
  (0x8A70_5551, .VB, .vfsub .vb ⟨false, 7⟩ .bf16 0 21 10 17),
  (0x90A6_8AF6, .VA, .vfmul .va ⟨true, 2⟩ .f32 13 2 23 22),
  (0x995D_3C83, .VB, .vfma .vb ⟨false, 5⟩ .f16 26 15 4 3),
  (0xA283_F248, .VA, .vfnma .va ⟨true, 0⟩ .bf16 7 28 18 8),
  (0xA83A_2BED, .VB, .vfmin .vb ⟨false, 3⟩ .f32 20 10 31 13)] = true := by decide

theorem test_words_V3 : decodesAll [
  (0xB1E1_5D92, .VA, .vfmax .va ⟨true, 6⟩ .f16 2 23 12 18),
  (0xBA17_9337, .VB, .vfsgn .vb ⟨false, 1⟩ .bf16 15 4 25 23),
  (0xC0C3_C4D8, .VA, .vfcmp .va ⟨true, 4⟩ .f32 7 17 6 .un),
  (0xC87A_2462, .VB, .vsfu .vb ⟨false, 7⟩ .exp2 20 9 2),
  (0xD0A0_D800, .VA, .vred .va ⟨true, 2⟩ 1 22 0),
  (0xD857_0F36, .VB, .vcomb .vb ⟨false, 5⟩ 14 3 25 22),
  (0xE388_9B47, .VA, .vcvt .va ⟨true, 0⟩ (.fp .e4m3) .s32 .sr 17 6 7),
  (0xEB3F_4C16, .VB, .vqnt .vb ⟨false, 3⟩ .e4m3 30 19 22),
  (0xF5E5_8003, .VA, .vdqnt .va ⟨true, 6⟩ .e2m1 11 0 3),
  (0xF815_C824, .VB, .plogic .vb ⟨false, 1⟩ 11 18 1 2),
  (0xF9C8_4000, .VA, .pset .va ⟨true, 4⟩ 16 256),
  (0xFA76_4000, .VB, .vany .vb ⟨false, 7⟩ 3 4),
  (0xFBA8_9000, .VA, .vall .va ⟨true, 2⟩ 4 9)] = true := by decide

theorem test_words_M1 : decodesAll [
  (0x015E_D14A, .M, .mopen ⟨false, 5⟩ 7 13 2 4 10),
  (0x028A_0000, .M, .mclose ⟨true, 0⟩ 5),
  (0x0335_C000, .M, .mcomb ⟨false, 3⟩ 2 7),
  (0x04EF_A240, .M, .mout ⟨true, 6⟩ 31 4 .bf16 .rtz),
  (0x0516_0800, .M, .mlda ⟨false, 1⟩ 12 1 .f32),
  (0x06CF_0000, .M, .mscale ⟨true, 4⟩ true 14),
  (0x0770_000D, .M, .mcfg ⟨false, 7⟩ 13),
  (0x08A4_57E9, .M, .mset ⟨true, 2⟩ 4 22505),
  (0x0951_6116, .M, .madd ⟨false, 5⟩ 1 24854),
  (0x1287_1C70, .M, .mma ⟨true, 0⟩ .e4m3 3 8 14 3 8),
  (0x1D30_D600, .M, .mmag ⟨false, 3⟩ .s8 0 6 11 0 0)] = true := by decide

theorem test_words_L1 : decodesAll [
  (0x01EF_6788, .L, .vld ⟨true, 6⟩ .vb 29 19 392),
  (0x0212_C0B5, .L, .vst ⟨false, 1⟩ .va 11 0 181),
  (0x03CE_1A20, .L, .vlds ⟨true, 4⟩ .vb 24 13 2),
  (0x0471_74F0, .L, .vsts ⟨false, 7⟩ .va 5 26 15),
  (0x05AC_8E3D, .L, .vldb ⟨true, 2⟩ .vb 18 7 61),
  (0x0657_FEF4, .L, .pld ⟨false, 5⟩ 15 31 756),
  (0x078A_3022, .L, .pst ⟨true, 0⟩ 20 12 34),
  (0x0832_69E0, .L, .aadd ⟨false, 3⟩ 4 26 15),
  (0x09E9_1E7C, .L, .aaddi ⟨true, 6⟩ 18 7 636),
  (0x0A1F_CF34, .L, .aset ⟨false, 1⟩ 31 20276),
  (0x0BC6_04D6, .L, .ald ⟨true, 4⟩ 12 1 214),
  (0x0C7C_BA03, .L, .ast ⟨false, 7⟩ 25 14 515),
  (0x15A4_4DB0, .L, .vgth ⟨true, 2⟩ .z16 .va 17 6 27),
  (0x1E5F_A680, .L, .vsct ⟨false, 5⟩ .z32 .vb 30 19 8)] = true := by decide

theorem test_words_L2 : decodesAll [
  (0x2385_9600, .L, .sld ⟨true, 0⟩ .s64 22 11 0),
  (0x2F30_F12D, .L, .sst ⟨false, 3⟩ .z64 3 24 301),
  (0x58E9_7685, .L, .latom ⟨true, 6⟩ .z64 .add 37 27 16 (.rel .dom))] = true := by decide

theorem test_words_Q1 : decodesAll [
  (0x0114_7640, .Q, .cpy ⟨false, 1⟩ 8 29 18),
  (0x02CA_A815, .Q, .cpy2 ⟨true, 4⟩ 21 10 0 21),
  (0x0371_61A0, .Q, .cpyt ⟨false, 7⟩ 2 24 13),
  (0x04A8_1740, .Q, .cpylt ⟨true, 2⟩ 16 5 26),
  (0x055E_C8E0, .Q, .cpya ⟨false, 5⟩ 29 18 7),
  (0x0685_03E0, .Q, .cpyz ⟨true, 0⟩ 10 31),
  (0x073B_B037, .Q, .cpyg ⟨false, 3⟩ 23 12 1 23),
  (0x08E2_0000, .Q, .cpyr ⟨true, 6⟩ 4),
  (0x171E_4626, .Q, .atom ⟨false, 1⟩ .s32 .cas 28 17 34 (.rel .die)),
  (0x30CF_D290, .Q, .atomFadd ⟨true, 4⟩ 31 20 41),
  (0x3876_06C0, .Q, .atomx ⟨false, 7⟩ 12 1 22)] = true := by decide

theorem test_words_N1 : decodesAll [
  (0x01AC_B860, .N, .rst ⟨true, 2⟩ 25 14 3),
  (0x0253_7700, .N, .rsts ⟨false, 5⟩ 6 59 16),
  (0x0389_A3C0, .N, .rcpy ⟨true, 0⟩ 19 8 30),
  (0x0430_5960, .N, .rget ⟨false, 3⟩ 0 22 11),
  (0x05E7_21B0, .N, .rsig ⟨true, 6⟩ 14 67 .die true),
  (0x061D_C0BA, .N, .mcast ⟨false, 1⟩ 27 16 5 26),
  (0x1FC9_1C62, .N, .ratom ⟨true, 4⟩ .s64 .cas 18 7 6 .acq)] = true := by decide

/-! ### Bundles (R135, R138, R139, Table 6.23) -/

/-- A bundle of some words at their slot numbers. -/
def bundle (ws : List (Nat × Word32)) : List Byte :=
  (List.range 8).flatMap fun i => word32Bytes (((ws.find? fun p => p.1 = i).map Prod.snd).getD 0)

/-- A context in RUN on site 0 whose next bundle holds some words. -/
def ctxOf (ws : List (Nat × Word32)) : Ctx := { fetchContext 0 with istore := memoryOf [(0, bundle ws)] }

/-- The word of an instruction. -/
def w (i : Instr) : Word32 := BitVec.ofNat 32 (wordOf i)

theorem test_two_writes_of_s1 :
    (ctxOf [(1, w (.add t0 1 2 3)), (5, w (.sld t0 .z32 1 0 0))]).fetchFault = some (0x03, 1, 1) := by decide +kernel
theorem test_two_copies_to_s :
    (ctxOf [(2, w (.vmovs .va t0 .s32 4 1 0)), (3, w (.vmovs .vb t0 .s32 5 1 0))]).fetchFault = some (0x03, 2, 2) := by
  decide +kernel
theorem test_copy_and_load : (ctxOf [(2, w (.vmovs .va t0 .s32 4 1 0)), (5, w (.sld t0 .z32 5 0 0))]).fetchFault = none := by
  decide +kernel
theorem test_two_flags :
    (ctxOf [(1, w (.cmp t0 3 .eq 1 2)), (2, w (.vany .va t0 4 1))]).fetchFault = none ∧
    (ctxOf [(1, w (.cmp t0 3 .eq 1 2)), (2, w (.vany .va t0 3 1))]).fetchFault = some (0x03, 1, 1) := by decide +kernel
theorem test_xim_to_nop : (ctxOf [(0, w (.xim 3 5))]).fetchFault = some (0x03, 0, 4) := by decide +kernel
theorem test_bad_predicate :
    (ctxOf [(2, w (.vfadd .va ⟨false, 1⟩ .f32 1 2 3 25))]).fetchFault =
      some (0x04, 2, wordOf (.vfadd .va ⟨false, 1⟩ .f32 1 2 3 25)) := by decide +kernel
theorem test_fetch_beyond_region :
    ({ fetchContext 0 with pc := 4096 } : Ctx).fetchFault = some (0x01, 0, 4096) := by decide +kernel

/-! ### Single steps of slot instructions -/

/-- A module with a context at work. -/
def atWork (c : Ctx) : State := { State.reset with cur := some c }

/-- A context whose s registers 1, 2, 3 hold given values. -/
def withS (a b d : Word) : Ctx := { fetchContext 0 with s := (((fetchContext 0).s.set 1 a).set 2 b).set 3 d }

/-- The context after an instruction. -/
def after (i : Instr) (c : Ctx) : Option Ctx :=
  match exec i (atWork c) with
  | .next t => t.cur
  | _ => none

/-- The results that an instruction puts in flight: destination, value, bound. -/
def puts (i : Instr) (c : Ctx) : List (Option Dest × Nat × Nat) :=
  ((after i c).map fun d => d.inflight.map fun e => (e.dst, e.val, e.due)).getD []

/-- The exception flags of the result. -/
def flagsOf (i : Instr) (c : Ctx) : List Flags := ((after i c).map fun d => d.inflight.map InFlight.flags).getD []

/-- The code and slot of the fault that an instruction raises. -/
def faultOf (i : Instr) (c : Ctx) : Option (Nat × Nat) := ((after i c).bind Ctx.fatal).map fun r => (r.code, r.slot)

theorem test_add_wraps : puts (.add t0 4 1 2) (withS 0xFFFF_FFFF_FFFF_FFFF 2 0) = [(some (.s 4), 1, 1)] := by decide +kernel
theorem test_sub : puts (.sub t0 4 1 2) (withS 1 2 0) = [(some (.s 4), 2 ^ 64 - 1, 1)] := by decide +kernel
theorem test_mulh : puts (.mulh t0 4 1 2) (withS 0xFFFF_FFFF_FFFF_FFFF 2 0) = [(some (.s 4), 2 ^ 64 - 1, 3)] := by
  decide +kernel
theorem test_mulhz : puts (.mulhz t0 4 1 2) (withS 0xFFFF_FFFF_FFFF_FFFF 2 0) = [(some (.s 4), 1, 3)] := by decide +kernel
theorem test_div_towards_zero : puts (.div t0 4 1 2) (withS (-7) 2 0) = [(some (.s 4), 2 ^ 64 - 3, 24)] := by decide +kernel
theorem test_div_by_zero : puts (.divz t0 4 1 2) (withS 7 0 0) = [(some (.s 4), 2 ^ 64 - 1, 24)] := by decide +kernel
theorem test_rem_sign : puts (.rem t0 4 1 2) (withS (-7) 2 0) = [(some (.s 4), 2 ^ 64 - 1, 24)] := by decide +kernel
theorem test_sra : puts (.sra t0 4 1 2) (withS (-8) 65 0) = [(some (.s 4), 2 ^ 64 - 4, 1)] := by decide +kernel
theorem test_minz : puts (.minz t0 4 1 2) (withS (-1) 2 0) = [(some (.s 4), 2, 1)] := by decide +kernel
theorem test_addi_widened :
    puts (.addi t0 5 1 0xE8) { withS 7 0 0 with issue := { Issue.idle with lent := some (1, 3) } } =
      [(some (.s 5), 1007, 1)] := by decide +kernel
theorem test_movhi : puts (.movhi t0 1 0x3FFF) (withS 5 0 0) = [(some (.s 1), 0xFFFF_FFFF_C000_0005, 1)] := by
  decide +kernel
theorem test_bfx_signed : puts (.bfx t0 4 1 2) (withS 0xF0 0x1_0404 0) = [(some (.s 4), 2 ^ 64 - 1, 1)] := by decide +kernel
theorem test_bfi : puts (.bfi t0 3 1 2) (withS 0xA 0x404 0x1234) = [(some (.s 3), 0x12A4, 1)] := by decide +kernel
theorem test_clz : puts (.clz t0 4 1) (withS 1 0 0) = [(some (.s 4), 63, 1)] ∧
    puts (.clz t0 4 2) (withS 1 0 0) = [(some (.s 4), 64, 1)] := by decide +kernel
theorem test_cmp_unsigned : puts (.cmp t0 1 .ltz 1 2) (withS 1 (-1) 0) = [(some (.f 1), 1, 1)] ∧
    puts (.cmp t0 1 .lt 1 2) (withS 1 (-1) 0) = [(some (.f 1), 0, 1)] := by decide +kernel
theorem test_false_guard : puts (.add ⟨true, 0⟩ 4 1 2) (withS 1 2 3) = [] := by decide +kernel
theorem test_fadd : puts (.fadd t0 4 1 2) (withS 0x3F80_0000 0x4000_0000 0) = [(some (.s 4), 0x4040_0000, 4)] := by
  decide +kernel
theorem test_fadd_nan : puts (.fadd t0 4 1 2) (withS 0xFFFF_FFFF 0x4000_0000 0) = [(some (.s 4), 0x7FC0_0000, 4)] := by
  decide +kernel
theorem test_fdiv_zero : puts (.fdiv t0 4 1 2) (withS 0x3F80_0000 0 0) = [(some (.s 4), 0x7F80_0000, 24)] ∧
    flagsOf (.fdiv t0 4 1 2) (withS 0x3F80_0000 0 0) = [0b01000] := by decide +kernel
theorem test_fsqrt : puts (.fsqrt t0 4 1) (withS 0x4080_0000 0 0) = [(some (.s 4), 0x4000_0000, 24)] := by decide +kernel
theorem test_csrw_lands_later : puts (.csrw t0 1 0x0F) (withS 9 0 0) = [(some (.csr 0x0F), 9, 1)] := by decide +kernel
theorem test_semrd : puts (.semrd t0 4 0) (fetchContext 0) = [(some (.s 4), 0, 1)] := by decide +kernel
theorem test_semrd_range : faultOf (.semrd t0 4 128) (fetchContext 0) = some (0x13, 1) := by decide +kernel
theorem test_branch : (after (.br t0 1) (fetchContext 0)).map (fun d => d.xfer) = some (some ⟨0, 2⟩) := by decide +kernel
theorem test_branch_in_delay :
    faultOf (.br t0 1) { fetchContext 0 with xfer := some ⟨64, 1⟩ } = some (0x06, 0) := by decide +kernel
theorem test_loop : (after (.loop t0 1 3) { fetchContext 0 with pc := 64 }).map (fun d => d.loops) =
    some [⟨96, 128, 3⟩] := by decide +kernel
theorem test_wait_holds : (after (.wait t0 0 1 false) (fetchContext 0)).map (fun d => (d.status, d.issue.held)) =
    some (.waiting, true) := by decide +kernel
theorem test_sig : (after (.sig t0 1 7 .tile false) (fetchContext 0)).map (fun d => d.semCount 1) = some 7 := by
  decide +kernel
theorem test_trap : faultOf (.trap t0 5) (fetchContext 0) = some (0x0C, 0) := by decide +kernel
theorem test_sys : (after (.sys t0 0x8001) (fetchContext 0)).map (fun d => (d.status, d.sys.isSome)) =
    some (.waiting, true) := by decide +kernel
theorem test_exit : (after (.exit t0) (fetchContext 0)).map (fun d => d.status) = some .exited := by decide +kernel

/-- A context with vector registers 1 and 2 of unit VA and predicate p4 all false, the others all true. -/
def withV (x y : VReg) : Ctx :=
  { fetchContext 0 with
    va := ((fetchContext 0).va.set 1 x).set 2 y
    p := (fetchContext 0).p.set 4 0 }

/-- Element j of width n of the first result. -/
def elOf (i : Instr) (c : Ctx) (j n : Nat) : Option Nat :=
  ((puts i c).head?).map fun e => el (BitVec.ofNat 2048 e.2.1) j n

theorem test_vadd_wraps : elOf (.vadd .va t0 .s8 3 1 2 1) (withV 0xFF01 0x0201) 0 8 = some 2 ∧
    elOf (.vadd .va t0 .s8 3 1 2 1) (withV 0xFF01 0x0201) 1 8 = some 1 := by decide +kernel
theorem test_vadd_predicated : elOf (.vadd .va t0 .s8 3 1 2 4) (withV 0xFF01 0x0201) 0 8 = some 0 := by decide +kernel
theorem test_vmax_signed : elOf (.vmax .va t0 .s16 3 1 2 1) (withV 0xFFFF 1) 0 16 = some 1 ∧
    elOf (.vmax .va t0 .z16 3 1 2 1) (withV 0xFFFF 1) 0 16 = some 0xFFFF := by decide +kernel
theorem test_vsplat : elOf (.vsplat .va t0 3 0x3FF 1) (withV 0 0) 63 32 = some 0xFFFF_FFFF := by decide +kernel
theorem test_vfadd : elOf (.vfadd .va t0 .f32 3 1 2 1) (withV 0x3F80_0000 0x4000_0000) 0 32 = some 0x4040_0000 := by
  decide +kernel
theorem test_vcmp : (puts (.vcmp .va t0 .z32 2 1 2 .lt) (withV 1 2)).map (fun e => (e.1, e.2.1 % 16)) =
    [(some (.p 2), 15)] := by decide +kernel
theorem test_pset : puts (.pset .va t0 2 3) (fetchContext 0) = [(some (.p 2), 7, 2)] := by decide +kernel

/-- A context with a1 = 64. -/
def withA : Ctx := { fetchContext 0 with a := (fetchContext 0).a.set 1 64, s := (fetchContext 0).s.set 1 0x1122_3344_5566_7788 }

theorem test_sst : (after (.sst t0 .z32 1 1 4) withA).map (fun d => (d.lm.num 68 4, d.lm.num 64 8, d.lm.num 72 8)) =
    some (0x5566_7788, 0x5566_7788_0000_0000, 0) := by decide +kernel
theorem test_sld_signed : puts (.sld t0 .s8 4 1 0) { withA with lm := memoryOf [(64, [0x80])] } =
    [(some (.s 4), 2 ^ 64 - 128, 6)] := by decide +kernel
theorem test_sld_misaligned : faultOf (.sld t0 .z32 4 2 1) { withA with a := withA.a.set 2 1 } = some (0x05, 5) := by
  decide +kernel
theorem test_sst_range : faultOf (.sst t0 .z32 1 2 0) { withA with a := withA.a.set 2 0x10_0000 } = some (0x10, 5) := by
  decide +kernel
theorem test_ast : (after (.ast t0 1 1 0) withA).map (fun d => d.lm.num 64 8) = some 64 := by decide +kernel
theorem test_aset : puts (.aset t0 3 0x7FFF) withA = [(some (.a 3), 2 ^ 64 - 1, 1)] := by decide +kernel
theorem test_latom_add : (after (.latom t0 .z32 .add 4 1 1 .relaxed) withA).map (fun d => d.lm.num 64 4) =
    some 0x5566_7788 := by decide +kernel
theorem test_mset_queued : (after (.mset t0 2 0xFFFF) withA).map (fun d => d.mq.length) = some 1 := by decide +kernel
theorem test_cpy_entry : (after (.cpy t0 2 3 4) withA).map (fun d => d.ops.map fun o => (o.e, o.kind, o.next)) =
    some [(0, .cpy, 0)] := by decide +kernel
theorem test_rcpy_entry : (after (.rcpy t0 2 3 4) withA).map (fun d => d.ops.map fun o => (o.e, o.kind)) =
    some [(32, .rcpy)] := by decide +kernel
theorem test_cpy_reserved_bit : faultOf (.cpy t0 2 3 4) { withA with a := withA.a.set 4 (BitVec.twoPow 64 63) } =
    some (0x04, 6) := by decide +kernel

/-! ### Obligations: a state and operands that meet the hypotheses of each, and of each clause -/

/-- A context in RUN with empty registers. -/
def base : Ctx := fetchContext 0

/-- The hypotheses that most slot statements share. -/
abbrev Meets (c : Ctx) : Prop := (atWork c).cur = some c ∧ c.guardOk t0 = true

theorem meets_base : Meets base := ⟨rfl, by decide +kernel⟩
theorem wit_RegisterAluResults : Meets (withS 7 0 0) ∧ Meets (withS 7 2 0) := ⟨⟨rfl, by decide +kernel⟩, rfl, by decide +kernel⟩
theorem wit_ImmediateAluResults : Meets base ∧ base.lentTo 1 = none ∧
    ({ base with issue := ⟨some (1, 3), .no, false, none, none⟩ } : Ctx).lentTo 1 = some 3 := ⟨meets_base, by decide +kernel⟩
theorem wit_BitInstructionResults : Meets (withS 1 0x4040 0) ∧ Meets (withS 1 0 0) :=
  ⟨⟨rfl, by decide +kernel⟩, rfl, by decide +kernel⟩
theorem wit_FlagInstructionResults : Meets base ∧ WellFormed.ccInt .eq = true ∧ WellFormed.ccInt .ntst = true :=
  ⟨meets_base, by decide⟩
theorem wit_ScalarFpResults : Meets (withS 0x7FC0_0000 0 0) ∧ ((withS 0x7FC0_0000 0 0).f32 1).isNan = true ∧
    WellFormed.ccFp .un = true := ⟨⟨rfl, by decide +kernel⟩, by decide +kernel⟩

/-- A context in DET mode, with or without a handler. -/
def inDet (h : Option Word32) : Ctx := { base with mode := 1, info := { base.info with deth := h } }

theorem wit_MoveAndSpecialRegisterResults : Meets base ∧ base.det = false ∧ Meets (inDet none) ∧ csrTrapped 0x10 = false ∧
    csrTrapped 0x07 = false ∧ 127 < base.sems.length ∧ base.poisonSem.contains 127 = false ∧ base.acqPending = false ∧
    base.relPending 127 = false ∧ base.inflight = [] := ⟨meets_base, by decide +kernel, ⟨rfl, by decide +kernel⟩, by decide +kernel⟩
theorem wit_ControlTransferResults : Meets base ∧ base.inDelay = false ∧ (base.rb 1).toNat % 32 = 0 ∧ base.loops = [] ∧
    base.issue.raised ≠ .fault := ⟨meets_base, by decide +kernel⟩
theorem wit_LoopAndRepetitionResults : Meets (withS 0 1 0) ∧ (withS 0 1 0).inDelay = false ∧ (withS 0 1 0).loops.length < 2 ∧
    ((withS 0 1 0).rs 2).toNat % 2 ^ 33 = 1 ∧ ((withS 0 1 0).rs 1).toNat % 2 ^ 39 = 0 ∧ (withS 0 1 0).repm = none ∧
    (∀ l ∈ ({ base with loops := [⟨32, 64, 1⟩] } : Ctx).loops, base.pc.toNat + 32 * (1 + 1) ≤ l.last.toNat) :=
  ⟨⟨rfl, by decide +kernel⟩, by decide +kernel⟩
/-- A context with a semaphore of value 2 and a mark, and a SIG of an earlier bundle that waits. -/
def withSem : Ctx := { base with sems := base.sems.set 0 ⟨2, 1⟩, rels := [⟨0, 1, .dom, 0, true⟩], issued := 1 }

theorem wit_SemaphoreResults : Meets base ∧ base.sems[0]? = some ⟨0, 0⟩ ∧ base.poisonSem.contains 0 = false ∧
    base.acqPending = false ∧ base.relPending 0 = false ∧ Meets withSem ∧ withSem.sems[0]? = some ⟨2, 1⟩ ∧
    withSem.acqPending = false ∧ withSem.relPending 0 = true :=
  ⟨meets_base, by decide +kernel, by decide +kernel, by decide +kernel, by decide +kernel, ⟨rfl, by decide +kernel⟩, by decide +kernel⟩

/-- A context with event 0 set. -/
def withEvent : Ctx := { base with events := 1 }

theorem wit_EventAndFenceResults : Meets withEvent ∧ withEvent.events.getLsbD 0 = true ∧ withEvent.ops = [] ∧
    withEvent.mq = [] ∧ withEvent.rels = [] ∧ withEvent.latom = none := ⟨⟨rfl, by decide +kernel⟩, by decide +kernel⟩

/-- A context with a copy to memory of an earlier bundle under way and captured by token 1. -/
def copying : Ctx :=
  { base with
    ops := [base.blankOp .cpy 0 64 (BitVec.ofNat 64 (2 ^ 56 + 32))]
    issued := 1
    ft := base.ft.set 1 ⟨some 0, .tile⟩ }

theorem wit_EventAndFenceResults_waiting : Meets copying ∧ (∃ o ∈ copying.ops, o.origin < copying.issued ∧ o.doneAt .pkg = false) ∧
    (∀ o ∈ copying.ops, o.cut = none) ∧ (copying.rft 1).upto = some 0 ∧
    ∃ o ∈ copying.ops, o.bundle ≤ 0 ∧ o.writesOut = true ∧ o.writesDone .tile = false :=
  ⟨⟨rfl, by decide +kernel⟩, by decide +kernel⟩

/-- A context in its DET handler. -/
def inHandler : Ctx := { base with mode := 0x21 }

/-- A context with a held LATOM of an earlier bundle, in DET mode. -/
def afterLatom : Ctx :=
  { inDet (some 64) with latom := some ⟨.z32, .add, 64, 5, 0, 4, 0, .dom⟩, issued := 1 }

theorem wit_TrapAndExitResults : Meets base ∧ base.fatal = none ∧ Meets inHandler ∧ inHandler.inDelay = false ∧
    inHandler.indet = true ∧ base.ops = [] ∧ base.latom = none ∧ Meets afterLatom ∧ afterLatom.ops = [] ∧
    ∃ h, afterLatom.latom = some h ∧ h.bundle < afterLatom.issued :=
  ⟨meets_base, by decide +kernel, ⟨rfl, by decide +kernel⟩, by decide +kernel, by decide +kernel, rfl, rfl,
    ⟨rfl, by decide +kernel⟩, rfl, _, rfl, by decide +kernel⟩
theorem wit_VectorByteResults : Meets (withV 1 2) := ⟨rfl, by decide +kernel⟩
theorem wit_VectorIntegerResults : Meets (withV 1 2) ∧ WellFormed.narrow .z8 = true ∧ WellFormed.narrow .s32 = true ∧
    WellFormed.sNarrow .s32 = true := ⟨⟨rfl, by decide +kernel⟩, by decide⟩
theorem wit_VectorMoveAndPredicateResults : Meets (withV 1 2) ∧ WellFormed.narrow .z8 = true ∧ WellFormed.ccVec .gt = true :=
  ⟨⟨rfl, by decide +kernel⟩, by decide⟩
theorem wit_VectorFpResults : Meets (withV 1 2) ∧ WellFormed.wide .f32 = true ∧ WellFormed.wide .bf16 = true ∧
    WellFormed.ccFp .ord = true := ⟨⟨rfl, by decide +kernel⟩, by decide⟩
theorem wit_VectorConversionResults :
    let v := fun (n : VReg) => FpTy.f32.val (el ((withV n 0).rv .va 1) 0 32)
    Meets (withV 1 2) ∧ WellFormed.wide .e2m1 = false ∧
    ({ base with issue := ⟨some (2, 3), .no, false, none, none⟩ } : Ctx).lentTo (unitSlot .va) = some 3 ∧
    gov ((withV 1 2).rp 2) 0 32 = true ∧ gov ((withV 1 2).rp 4) 0 32 = false ∧ gov ((withV 1 2).rp 5) 0 32 = true ∧
    (v 0x7FC0_0000).isFinNz = false ∧ (v 0x7FC0_0000).isZero = false ∧ (v 0x8000_0000).isZero = true ∧
    (v 0x3F80_0000).isFinNz = true ∧ fvTop (v 0x7F7F_FFFF) = 127 :=
  ⟨⟨rfl, by decide +kernel⟩, by decide +kernel⟩

/-- A context of a full die whose chain c0 is open for 32 values in planes 0 and 1, c1 is complete, c2 and c3 are closed
neighbours, and whose registers and table serve every M instruction. -/
def withM : Ctx :=
  { base with
    info := { base.info with shape := 1 }
    ch := (((base.ch.set 0 ⟨.opened, false, false, 0, 1, 0, 32, 0, 5, 0, 0⟩).set 1 ⟨.opened, false, true, 2, 1, 0, 32, 0, 5, 2, 0⟩).set
      2 ⟨.closed, false, true, 4, 1, 0, 64, 0, 5, 2, 0⟩).set 3 ⟨.closed, false, true, 6, 1, 0, 64, 32, 5, 2, 0⟩
    ma := (base.ma.set 1 32).set 2 0x2800_0000
    ts := memoryOf [(0, (List.replicate 16 [0, 0, 0x80, 0x3F]).flatten)] }

theorem wit_MatrixInstructionsEnterTheQueue : Meets withM ∧ withM.repm = none ∧ withM.mq.length < 2 ∧
    withM.repsToStart = false ∧ withM.acqPending = false ∧ (∀ m ∈ withM.mq, isMmag m.ins = true → m.active = true) ∧
    withM.tableWaits (.mscale t0 false 0) = false ∧
    ∀ i ∈ [Instr.mopen t0 4 8 1 0 1, .mclose t0 1, .mcomb t0 2 3, .mout t0 0 0 .f32 .rne, .mlda t0 15 0 .f32,
      .mscale t0 false 0, .mcfg t0 0, .mset t0 0 0xFFFF, .madd t0 0 1, .mma t0 .bf16 0 0 0 0 0, .mmag t0 .bf16 0 0 0 0 0],
      withM.mIssueFault i = none := by
  refine ⟨⟨rfl, ?_⟩, ?_⟩ <;> decide +kernel

/-- A context with an M instruction in its queue. -/
def queueing (i : Instr) (governed : Bool) : Ctx := { withM with mq := [⟨i, none, governed, 2, 0, false, false, false, false⟩] }

theorem wit_MatrixInstructionsEnterTheQueue_waiting :
    Meets (queueing (.madd t0 0 1) true) ∧ (queueing (.madd t0 0 1) true).repsToStart = true ∧
    (∃ m ∈ (queueing (.mmag t0 .bf16 0 0 0 0 0) false).mq, isMmag m.ins = true ∧ m.active = false) ∧
    (queueing (.mout t0 4 0 .f32 .rne) false).tableWaits (.mscale t0 false 0) = true ∧
    (queueing (.mout t0 4 0 .f32 .rne) false).mIssueFault (.mscale t0 false 0) = none := by
  refine ⟨⟨rfl, ?_⟩, ?_⟩ <;> decide +kernel
theorem wit_RepetitionGovernsMatrixInstructions :
    let c : Ctx := { withM with repm := some 3 }
    Meets c ∧ c.repm = some 3 ∧ c.mq.length < 2 ∧ c.repsToStart = false ∧ c.acqPending = false ∧ c.fatal = none ∧
    encode (Instr.madd t0 0 1) = some (.M, w (Instr.madd t0 0 1)) ∧ Machine.guardOf (Instr.madd t0 0 1) = t0 ∧
    mRepeats (Instr.madd t0 0 1) = true ∧ c.mIssueFault (.madd t0 0 1) = none ∧ encode (Instr.mset t0 0 1) = some (.M, w (Instr.mset t0 0 1)) ∧
    Machine.guardOf (Instr.mset t0 0 1) = t0 ∧ mRepeats (Instr.mset t0 0 1) = false := by
  refine ⟨⟨rfl, ?_⟩, ?_⟩ <;> decide +kernel

/-- A poisoned word of LM. -/
def withPoison : Ctx := { base with poisonLm := [1] }

theorem wit_LocalAccessChecks : 0 < 8 ∧ base.lmFault [base.lmSize - 8] 8 8 true = none ∧
    withPoison.lmFault [8] 8 8 true ≠ none ∧ withPoison.lmFault [0, 16] 8 8 true = none ∧ (∃ o ∈ [4], o % 8 ≠ 0) ∧
    (∀ o ∈ [base.lmSize], o % 8 = 0) ∧ ∃ o ∈ [base.lmSize], base.lmSize < o + 8 := by decide +kernel
theorem wit_LocalLoadResults : Meets withA ∧ withA.lmHeld = false ∧ withA.lmFault [64] 256 32 true = none ∧
    withA.lmFault ((List.range 8).map fun j => 32 * j) 32 32 true = none ∧ withA.lmFault [64] 32 32 true = none ∧
    withA.lmFault [64] 8 8 true = none ∧ WellFormed.zNarrow .z32 = true ∧
    withA.lmFault (List.replicate 64 64) 4 4 true = none := ⟨⟨rfl, by decide +kernel⟩, by decide +kernel⟩
/-- A context with an RATOM of this bundle on bytes of its own LM. -/
def withRatom : Ctx :=
  { withA with
    issue := { Issue.idle with dev := some 0 }
    ops := [{ withA.blankOp .ratom 64 0 0 with e := 32, ty := .z32, aop := .add, val := 5 }] }

theorem wit_LocalStoreResults_ratom : Meets withRatom ∧ (∀ o ∈ withA.ops, o.kind = .ratom → o.bundle ≠ withA.issued) ∧
    ∃ o, withRatom.ops = [o] ∧ withRatom.settleLoads.ownRatom withRatom.issued 64 4 o = true ∧ ctlRet o.ctl = false ∧
      poisonHit withRatom.poisonLm 8 (rlOff o.dst.toNat) (atomBytes o.ty) = false :=
  ⟨⟨rfl, by decide +kernel⟩, by decide +kernel, _, rfl, by decide +kernel⟩
theorem wit_LocalStoreResults : Meets withA ∧ withA.lmHeld = false ∧ withA.lmFault [withA.dispOff 1 (0 : BitVec 9) 32] 256 32 false = none ∧
    withA.lmFault (withA.pieces 1 1) 32 32 false = none ∧ withA.lmFault [withA.dispOff 1 (0 : BitVec 10) 32] 32 32 false = none ∧
    withA.lmFault [withA.dispOff 1 (0 : BitVec 10) 8] 8 8 false = none ∧ WellFormed.zNarrow .z8 = true ∧
    withA.lmFault (withA.gather .va 1 2) 1 1 false = none ∧ withA.lmFault [withA.dispOff 1 (0 : BitVec 9) 1] 8 8 false = none :=
  ⟨⟨rfl, by decide +kernel⟩, by decide +kernel⟩
theorem wit_AddressAndLocalAtomicResults : Meets withA ∧ withA.lmHeld = false ∧
    withA.lmFault [(withA.ra 1).toNat] (atomBytes .s64) (atomBytes .s64) true = none :=
  ⟨⟨rfl, by decide +kernel⟩, by decide +kernel⟩

/-- A context with some a registers, and pieces of LM. -/
def withRegs (xs : List (Fin 32 × Word)) (lm : List (Nat × List Byte)) : Ctx :=
  { base with a := xs.foldl (fun v p => v.set p.1 p.2) base.a, lm := memoryOf lm }

/-- A control operand: flags, increment, semaphore, length. -/
def ctlOf (flags inc sem len : Nat) : Word := BitVec.ofNat 64 (flags * 2 ^ 56 + inc * 2 ^ 48 + sem * 2 ^ 40 + len)

/-- A context for the Q slot: a1 a canonical address, a3 a control operand, a4 the offset of a record. -/
def withQ (ctl : Word) : Ctx :=
  withRegs [(1, 0xFF00_0000_0000_0000), (2, 64), (3, ctl), (4, 256)] [(256, leBytes 32 (2 ^ 128))]

/-- LM with the resume record of a CPY of 64 bytes, at offset 256. -/
def withRecord : Ctx :=
  withRegs [(1, 256)] [(256, resumeRecord .cpy 0 64 (ctlOf 3 1 127 64) 0 32 [] 0)]

theorem wit_CopyInstructionsTakeAnEntry :
    let c := withQ (ctlOf 3 255 127 64)
    let z := withQ (ctlOf 0 1 0 64)
    let g := withQ (ctlOf 0x18 1 0 256)
    Meets c ∧ c.acqPending = false ∧ c.latomMeets c.issued (c.ra 4).toNat 32 = false ∧ c.freeEntry 0 = some 0 ∧
    ctlClean (c.ra 3) 3 40 = true ∧ ctlSem (c.ra 3) < c.sems.length ∧ ctlDsp (c.ra 3) = true ∧ canonical (z.ra 1) = true ∧
    c.lmFault [(c.ra 4).toNat] 32 32 true = none ∧ cpy2Ok (c.lm.read (c.ra 4).toNat 32) = true ∧
    ctlClean (z.ra 3) 0 40 = true ∧ ctlSem (z.ra 3) < z.sems.length ∧ (z.ra 2).toNat < 2 ^ 15 ∧ ctlLen (z.ra 3) % 32 = 0 ∧
    (z.ra 2).toNat % 32 = 0 ∧ (z.ra 2).toNat < 2 ^ 21 ∧ ctlClean (g.ra 3) 0x18 40 = true ∧
    ctlLen (g.ra 3) % ctlGsz (g.ra 3) = 0 ∧ (g.ra 4).toNat % 4 = 0 ∧ Meets withRecord ∧
    withRecord.lmFault [(withRecord.ra 1).toNat] 128 128 true = none ∧
    (∃ o, withRecord.opOfRecord (withRecord.lm.read 256 128) = some o ∧ (opcOf o.kind).map Prod.fst = some 6 ∧
      ctlSem o.ctl < withRecord.sems.length ∧ o.next = 32 ∧ withRecord.recHeld o 256 = false ∧
      ∀ f ∈ withRecord.operandChecks o 0, f = none) ∧
    (∀ x ∈ withRecord.ops, x.cut = none) := by
  refine ⟨⟨rfl, ?_⟩, ?_, ?_, ?_, ?_, ?_, ?_, ?_, ?_, ?_, ?_, ?_, ?_, ?_, ?_, ?_, ?_, ?_, ?_, ⟨rfl, ?_⟩, ?_, ⟨_, rfl, ?_⟩, ?_⟩ <;>
    decide +kernel
theorem wit_CopyInstructionsTakeAnEntry_remote :
    let rec_ := fun k s => resumeRecord k 0 s (ctlOf 0 1 127 64) 0 32 [] 0
    let c : Ctx := { withRegs [(1, 256)] [(256, rec_ .rget 64)] with
      latom := some ⟨.z32, .add, 64, 5, 0, 4, 0, .dom⟩, issued := 1 }
    let o0 := (withRecord.opOfRecord (withRecord.lm.read 256 128)).getD (withRecord.blankOp .cpy 0 0 0)
    let x := { o0 with e := 5, cut := some ⟨0x30, 3, 6, 4⟩ }
    (∃ o, c.opOfRecord (c.lm.read 256 128) = some o ∧ (opcOf o.kind).map Prod.fst = some 7 ∧ c.freeEntry 32 = some 32 ∧
      c.recHeld o 256 = false ∧ ∀ f ∈ c.operandChecks o 0, f = none) ∧ x.cutMatches o0 = true :=
  ⟨⟨_, rfl, by decide +kernel⟩, by decide +kernel⟩
theorem wit_AtomicInstructionsTakeAnEntry :
    let c := withRegs [(1, 64), (3, ctlOf 4 1 127 64), (4, 256)] []
    let x := withRegs [(1, 64), (3, ctlOf 0 1 127 16), (4, 256)] []
    let short := { withRegs [(1, 64), (3, ctlOf 0 1 127 1), (4, 256)] [] with poisonLm := [33, 39] }
    (∀ y ∈ [x, short], (∀ p ∈ atomxReads (y.ra 4).toNat (ctlLen (y.ra 3)), y.latomMeets y.issued p.1 p.2 = false) ∧
      ∀ f ∈ y.atomxCheck (y.ra 4) (ctlLen (y.ra 3)), f = none) ∧
    ctlLen (short.ra 3) = 1 ∧ short.lmFault [256] 128 32 true ≠ none ∧
    Meets c ∧ c.acqPending = false ∧ c.freeEntry 0 = some 0 ∧ c.det = false ∧
    ctlClean (c.ra 3) 4 21 = true ∧ ctlSem (c.ra 3) < c.sems.length ∧ canonical (c.ra 1) = true ∧
    (c.ra 1).toNat % atomBytes .z64 = 0 ∧ ctlRet (c.ra 3) = true ∧ ctlLen (c.ra 3) % 2 ^ 21 % atomBytes .z64 = 0 ∧
    ctlLen (c.ra 3) % 2 ^ 21 + atomBytes .z64 ≤ c.lmSize ∧ Meets (inDet none) ∧ (inDet none).det = true ∧
    (inDet none).fatal = none ∧ ctlClean (x.ra 3) 0 5 = true ∧ (x.ra 1).toNat % 64 = 0 ∧
    ctlLen (x.ra 3) = 16 ∧
    recField (x.lm.read (x.ra 4).toNat 128) 96 32 = 0 := by
  refine ⟨?_, ?_, ?_, ⟨rfl, ?_⟩, ?_, ?_, ?_, ?_, ?_, ?_, ?_, ?_, ?_, ?_, ⟨rfl, ?_⟩, ?_⟩ <;> decide +kernel
theorem wit_RemoteInstructionsTakeAnEntry :
    let c := withRegs [(1, 64), (3, ctlOf 0 1 127 (2 ^ 21)), (4, 256)] []
    let v := withRegs [(1, 64), (3, ctlOf 0 1 127 8)] []
    let m := withRegs [(1, 2), (3, ctlOf 0 1 127 32), (4, 256)] []
    Meets c ∧ c.acqPending = false ∧ m.latomMeets m.issued (m.ra 4).toNat (8 * 2) = false ∧ c.freeEntry 32 = some 32 ∧
    ctlClean (c.ra 3) 0 40 = true ∧
    ctlSem (c.ra 3) < c.sems.length ∧ ctlLen (c.ra 3) ≤ 2 ^ 21 ∧ rlClean (c.ra 1) false = true ∧ rlClean (c.ra 1) true = true ∧
    Meets v ∧ ctlLen (v.ra 3) ∈ [1, 2, 4, 8] ∧ rlOff (v.ra 1).toNat % ctlLen (v.ra 3) = 0 ∧ ctlDsp (c.ra 3) = false ∧
    canonical (c.ra 1) = true ∧ Meets m ∧ (m.ra 1).toNat = 2 ∧ m.lmFault [(m.ra 4).toNat] (8 * 2) 8 true = none ∧
    mcastList (m.lm.read (m.ra 4).toNat (8 * 2)) 2 = [0, 0] ∧ rlClean 0 false = true ∧ ctlClean (v.ra 3) 4 40 = true := by
  refine ⟨⟨rfl, ?_⟩, ?_, ?_, ?_, ?_, ?_, ?_, ?_, ?_, ⟨rfl, ?_⟩, ?_, ?_, ?_, ?_, ⟨rfl, ?_⟩, ?_⟩ <;> decide +kernel

/-- A context in a delay bundle; one in a loop; one in two loops. -/
def inSlot : Ctx := { base with xfer := some ⟨64, 2⟩ }
def inLoop : Ctx := { base with loops := [⟨0, 0, 2⟩] }

theorem wit_InstructionFaults :
    let r := withQ (ctlOf 4 0 0 0)
    let q := withQ (ctlOf 3 0 127 64)
    let b := { base with b := base.b.set 1 4 }
    Meets r ∧ r.fatal = none ∧ ctlClean (r.ra 3) 3 40 = false ∧ Meets { q with sems := [] } ∧
    ctlClean (q.ra 3) 3 40 = true ∧ ({ q with sems := [] } : Ctx).sems.length ≤ ctlSem (q.ra 3) ∧
    ctlDsp ((withQ (ctlOf 1 0 0 64)).ra 3) = false ∧ canonical (0x0100_0000_0000_0000 : Word) = false ∧
    Meets inSlot ∧ inSlot.fatal = none ∧ inSlot.inDelay = true ∧ Meets inLoop ∧ inLoop.inDelay = false ∧ inLoop.loops ≠ [] ∧
    Meets b ∧ (b.rb 1).toNat % 32 ≠ 0 ∧ 2 ≤ ({ base with loops := [⟨0, 0, 2⟩, ⟨0, 0, 2⟩] } : Ctx).loops.length ∧
    (∃ l, inLoop.loops = [l] ∧ l.last.toNat < inLoop.pc.toNat + 32 * (0 + 1)) ∧
    ({ base with repm := some 1 } : Ctx).repm.isSome = true ∧ base.indet = false := by
  refine ⟨⟨rfl, ?_⟩, ?_, ?_, ⟨rfl, ?_⟩, ?_, ?_, ?_, ?_, ⟨rfl, ?_⟩, ?_, ?_, ⟨rfl, ?_⟩, ?_, ?_, ⟨rfl, ?_⟩, ?_, ?_,
    ⟨_, rfl, ?_⟩, ?_⟩ <;> decide +kernel
/-- Operands with a fault each for the N slot: a1 a reserved bit, a2 an address that is not canonical, a6 an offset of 4, a7 a
reserved control bit. -/
def withN : Ctx :=
  withRegs [(1, BitVec.twoPow 64 21), (2, 0x0100_0000_0000_0000), (3, ctlOf 0 1 127 64), (4, ctlOf 1 1 127 64),
    (5, ctlOf 4 1 127 8), (6, 4), (7, ctlOf 0x80 1 127 8), (8, ctlOf 2 1 127 64), (9, ctlOf 0 1 127 8)] []

theorem wit_InstructionFaults_remote :
    let c := withN
    Meets c ∧ c.fatal = none ∧ ctlClean (c.ra 7) 0b111 21 = false ∧ ctlClean (c.ra 7) 0b11 40 = false ∧
    ctlClean (c.ra 7) 0 40 = false ∧ ({ c with sems := [] } : Ctx).sems.length ≤ ctlSem (c.ra 3) ∧
    ctlClean (c.ra 3) 0 40 = true ∧ ctlSem (c.ra 3) < c.sems.length ∧ rlClean (c.ra 1) false = false ∧
    rlClean (c.ra 1) true = false ∧ ctlLen (c.ra 3) ∉ [1, 2, 4, 8] ∧ ctlClean (c.ra 9) 0 40 = true ∧
    ctlLen (c.ra 9) ∈ [1, 2, 4, 8] ∧ rlClean (c.ra 6) false = true ∧ rlOff (c.ra 6).toNat % ctlLen (c.ra 9) ≠ 0 ∧
    ctlClean (c.ra 8) 0b11 40 = true ∧ ctlDsp (c.ra 8) = true ∧ ctlClean (c.ra 4) 0b11 40 = true ∧ ctlDsp (c.ra 4) = false ∧
    canonical (c.ra 2) = false ∧ ctlClean (c.ra 3) 0b11 40 = true ∧ ctlDsp (c.ra 3) = false ∧ ctlSsp (c.ra 3) = false ∧
    canonical (c.ra 6) = true ∧ (c.ra 0).toNat = 0 ∧ 64 < (c.ra 1).toNat ∧ ctlClean (c.ra 5) 0b100 21 = true ∧
    ctlRet (c.ra 5) = true ∧ rlOff (c.ra 6).toNat % atomBytes .s64 ≠ 0 := by
  refine ⟨⟨rfl, ?_⟩, ?_⟩ <;> decide +kernel

/-- A context in which M instructions meet each fault of Table 9.6: ma3 near the last row, ma5 at a table with zeros, ma6 at one
beyond TS, c4 a chain beyond AS. -/
def faultyM : Ctx := { withM with
  ma := ((withM.ma.set 3 2047).set 5 0x7000).set 6 0x77FF
  ch := withM.ch.set 4 ⟨.opened, false, false, 16, 1, 0, 32, 0, 5, 0, 0⟩ }

theorem wit_InstructionFaults_matrix :
    let c := faultyM
    let x := { c with ma := c.ma.set 0 0x10_0000 }
    let top := 128 * c.part.ts
    Meets c ∧ c.fatal = none ∧ c.repm = none ∧ c.mq = [] ∧ c.ahead = c ∧ (c.rma 0).toNat = 0 ∧
    (c.rch 2).state ≠ .opened ∧ (c.rch 0).state = .opened ∧ (c.rch 0).m < (c.rch 0).live ∧ (c.rch 1).m = (c.rch 1).live ∧
    (c.rch 1).state = .opened ∧ c.part.as ≤ (16 : BitVec 5).toNat ∧ top < maRow (c.rma 3) + 8 * FpTy.f32.width ∧
    256 * top < 256 * maRow (c.rma 6) + 32 * maSeg (c.rma 6) + 64 ∧ c.poisonTs = [] ∧
    256 * maRow (c.rma 5) + 32 * maSeg (c.rma 5) + 64 ≤ 256 * top ∧
    posFin (c.ts.num (256 * maRow (c.rma 5) + 32 * maSeg (c.rma 5)) 4) = false ∧ c.tableWaits (.mscale t0 false 5) = false ∧
    c.rowsOut (c.mmaRows false .bf16 0 3 0 0 0) = some 2048 ∧ c.rowsOut (c.mmaRows false .bf16 4 0 0 0 0) = none ∧
    c.part.as ≤ (c.rch 4).h + (c.rch 4).d ∧ c.rowsOut (c.mmaRows false .e4m3 0 0 0 0 0) = none ∧
    (c.rch 0).h + (c.rch 0).d < c.part.as ∧ maScnt (c.rma 0) < ((c.rch 0).present + 15) / 16 ∧ c.info.shape = 1 ∧
    base.info.shape ≠ 1 ∧ x.rowsOut (x.mmaRows true .e2m1 0 0 0 0 0) = none ∧
    ((c.rch 0).present + 15) / 16 ≤ maScnt (x.rma 0) ∧ (c.rch 0).size * mtWidth .e2m1 < 128 := by
  refine ⟨⟨rfl, ?_⟩, ?_⟩ <;> decide +kernel
/-- Chains beyond AS, as an image that software has changed may hold them: c4 to be closed, c2 to be combined with c3. -/
def outsideM : Ctx := { withM with
  ch := (withM.ch.set 4 ⟨.opened, false, true, 16, 2, 0, 32, 0, 5, 2, 2⟩).set 2 ⟨.closed, false, true, 16, 1, 0, 64, 0, 5, 2, 0⟩ }
theorem wit_InstructionFaults_planes :
    let c := outsideM
    let outside := fun (i : Instr) => (planesRead c i ++ planesWritten c i 1).find? fun p => decide (c.part.as ≤ p)
    c.ahead = c ∧ (c.rch 4).state = .opened ∧ (c.rch 4).m = (c.rch 4).live ∧ outside (.mclose t0 4) = some 18 ∧
    combines (c.rch 2) (c.rch 3) false = true ∧ outside (.mcomb t0 2 3) = some 16 ∧
    ∀ i ∈ [Instr.mclose t0 4, .mcomb t0 2 3], c.hinges i (0x12, 18) = false ∧ c.hinges i (0x12, 16) = false := by
  decide +kernel
theorem test_mclose_beyond_as : faultOf (.mclose t0 4) outsideM = some (0x12, 4) := by decide +kernel
theorem test_table_of_zeros : faultOf (.mscale t0 false 5) faultyM = some (0x20, 4) := by decide +kernel
theorem test_mma_beyond_ts : faultOf (.mma t0 .bf16 0 3 0 0 0) faultyM = some (0x11, 4) := by decide +kernel
theorem wit_FalseGuardHasNoEffect : (atWork base).cur = some base ∧ base.guardOk ⟨true, 0⟩ = false ∧
    encode (.add ⟨true, 0⟩ 1 2 3) = some (.S, slotWord 0x01 ⟨true, 0⟩ 0x420C) :=
  ⟨rfl, by decide +kernel⟩
theorem wit_FalseGuardHasNoEffect_matrix :
    let no : Guard := ⟨true, 0⟩
    let c : Ctx := { withM with repm := some 3 }
    (atWork c).cur = some c ∧ c.guardOk no = false ∧ Machine.guardOf (Instr.madd no 0 1) = no ∧
    encode (Instr.madd no 0 1) = some (.M, w (Instr.madd no 0 1)) ∧ mRepeats (Instr.madd no 0 1) = true ∧
    encode (Instr.mset no 0 1) = some (.M, w (Instr.mset no 0 1)) ∧ mRepeats (Instr.mset no 0 1) = false ∧
    c.repsToStart = false ∧ (∀ m ∈ c.mq, isMmag m.ins = true → m.active = true) ∧ c.mq.length < 2 ∧ c.acqPending = false ∧
    withM.repm = none ∧ (queueing (.madd t0 0 1) true).repsToStart = true ∧
    (queueing (.madd t0 0 1) true).guardOk no = false := ⟨rfl, by decide +kernel⟩
theorem wit_ResultsLandInOrder : base.inflight = [] ∧ (0 : Nat) < 1 ∧ (1 : Nat) ≤ 1 ∧ (1 : Nat) < 2 ∧
    (∀ n, Dest.s 4 ≠ .csr n) := ⟨rfl, by decide, by decide, by decide, fun _ => nofun⟩
theorem wit_FaultReportFields : let r : Report := ⟨255, 7, 7, 2 ^ 32 - 1⟩
    r.code < 256 ∧ r.cls < 8 ∧ r.slot < 8 ∧ r.detail < 2 ^ 32 := by decide
theorem wit_DetModeTraps :
    let c := inDet (some 64)
    Meets c ∧ c.det = true ∧ c.indet = false ∧ c.info.deth = some 64 ∧ c.tretVal = none ∧ c.inflight = [] ∧
    csrTrapped 0x06 = true ∧ csrTrapped 0x0A = true ∧ c.fatal = none ∧ Meets { inDet none with mode := 0x21 } ∧
    ({ inDet none with mode := 0x21 } : Ctx).indet = true ∧ (inDet none).indet = false ∧ (inDet none).info.deth = none ∧
    c.latom = none ∧ Meets afterLatom ∧ afterLatom.det = true ∧ afterLatom.indet = false ∧ afterLatom.info.deth = some 64 := by
  refine ⟨⟨rfl, ?_⟩, ?_, ?_, ?_, ?_, ?_, ?_, ?_, ?_, ⟨rfl, ?_⟩, ?_, ?_, ?_, ?_, ⟨rfl, ?_⟩, ?_⟩ <;> decide +kernel
theorem wit_BundleSequence : inLoop.issue.jump = none ∧ inLoop.pc = 0 ∧ inLoop.loops = ⟨0, 0, 2⟩ :: [] ∧ base.issue.jump = none ∧
    (∀ l ∈ base.loops, l.last ≠ base.pc ∧ l.last ≠ base.pc + 32) ∧
    (∀ l ∈ ([⟨0, 64, 2⟩] : List Loop), l.last ≠ (0 : Word32) ∧ l.last ≠ (32 : Word32)) := by decide +kernel
theorem wit_MemoryReadAfterWrite : Memory.wf (memoryOf [(4, [1, 2])]) = true := by decide +kernel

/-- A module whose agenda names the next V-cycle of site 0, where a context runs. -/
def cycling (c : Ctx) : State :=
  { State.reset with agenda := [.cycle 0], ctxs := [c], tracts := [fetchTract], fresh := 0 }

theorem wit_StepFollowsTheAgenda :
    let c := { base with pc := 4096 }
    let s := cycling c
    s.agenda = .cycle c.site :: [] ∧ State.reset.agenda = [] ∧ s.awake = true ∧ s.ctxs = [c] ∧ c.site < 256 ∧
    s.issues c = true ∧ c.sys = none ∧ (s.site c.site).portTaken = false ∧ c.fetchFault = some (0x01, 0, 4096) ∧
    (s.sitesFail fetchTract = false ∧ fetchTract.state = .running) ∧
    ({ s with sites := s.sites.set 0 { Site.reset with drain := true } } : State).sitesFail fetchTract = true ∧
    (let t : State := { s with ctxs := [{ c with fatal := some ⟨0x0C, 1, 0, 0⟩ }] };
      t.report.tracts.any (fun x => x.cause.isNone && (t.report.firstFault x).isSome) = true) ∧
    fetchTract ∈ s.tracts ∧ fetchTract.frank = none ∧ c.key.tract = fetchTract.id ∧ c.fatal = none ∧
    ({ c with fatal := some ⟨0x0C, 1, 0, 0⟩ } : Ctx).fatal.isSome = true := by
  refine ⟨rfl, rfl, ?_, rfl, ?_⟩ <;> decide +kernel
theorem wit_StepRunsTheDecodedInstruction :
    let i : Instr := .add t0 1 2 3
    let c := ctxOf [(1, w i)]
    let s := cycling c
    let s0 := ({ s with agenda := [] } : State).begin c.arrive
    s.agenda = .cycle c.site :: [] ∧ s.awake = true ∧ s.ctxs = [c] ∧ c.site < 256 ∧ s.issues c = true ∧ c.sys = none ∧
    c.latom = none ∧ (s.site c.site).halfRate % 2 = 0 ∧ (s.site c.site).portTaken = false ∧
    c.fetchFault = none ∧ decodeSlot .S (slotOf c.words Slot.S.index) = .ok i ∧
    (∀ k ∈ [Slot.B, .VA, .VB, .M, .L, .Q, .N], slotOf c.words k.index = 0) ∧
    (match exec i s0 with
      | .next t => (t.cur.map fun d => (d.key, d.issue.held, d.issue.raised)) == some (c.key, false, .no)
      | _ => false) = true := by
  refine ⟨rfl, ?_, rfl, ?_⟩ <;> decide +kernel
theorem wit_DecoderAcceptsOnlyWellFormed : decodeSlot .S (w (Instr.add t0 1 2 3)) = .ok (.add t0 1 2 3) ∧
    opListed .S (opOf 0xFF00_0000) = false := by decide +kernel
theorem wit_DecodeInvertsEncode : (Instr.add t0 1 2 3).WellFormed ∧
    encode (.add t0 1 2 3) = some (.S, w (Instr.add t0 1 2 3)) := ⟨rfl, by decide +kernel⟩
theorem wit_SlotInstructionFrame : ∃ t d, (atWork base).cur = some base ∧
    encode (.add t0 1 2 3) = some (.S, w (Instr.add t0 1 2 3)) ∧ exec (.add t0 1 2 3) (atWork base) = .next t ∧
    t.cur = some d ∧ d.issue.raised = .no := ⟨_, _, rfl, by decide +kernel, rfl, rfl, by decide +kernel⟩
theorem wit_SlotInstructionIsolation : isSlot (.add t0 1 2 3) = true ∧ (atWork base).cur = some base ∧
    (∃ t, exec (.add t0 1 2 3) (atWork base) = .next t) ∧ (atWork base).devcfg = State.reset.devcfg ∧
    (atWork base).fresh = State.reset.fresh := ⟨rfl, rfl, ⟨_, rfl⟩, rfl, rfl⟩
theorem wit_EventsNeverStop : isSlot .steppeWrite = false ∧ State.reset.eventsOnly ∧ isSlot (.add t0 1 2 3) = true ∧
    State.reset.cur = none := ⟨rfl, fun _ h => absurd h (List.not_mem_nil (α := Machine.Turn)), rfl, rfl⟩
theorem wit_StepKeepsMemoriesCanonical : State.reset.memOk ∧ ∃ t, step { State.reset with agenda := [.event .steppeWrite] } = .next t :=
  ⟨⟨rfl, rfl, fun _ h => absurd h (List.not_mem_nil (α := Ctx)), fun _ h => nomatch (show (none : Option Ctx) = some _ from h)⟩, _, rfl⟩

/-! ### Obligations on events: the states that meet their hypotheses -/

/-- A module that holds one running context. -/
def holding (c : Ctx) : State := { State.reset with ctxs := [c], tracts := [fetchTract] }

/-- A context that holds a bundle with one B instruction. -/
def waitingOn (i : Instr) : Ctx := { ctxOf [(0, w i)] with status := .waiting }

/-- A pending SYS CAPACITY. -/
def inSys : Ctx := { base with status := .waiting, sys := some ⟨1, 0, 0, false⟩ }

/-- A die whose firmware runs. -/
def theDie : Die :=
  { Die.reset with stage := 5, fw := List.replicate 5 (some ⟨0, 0, true⟩), ports := List.replicate 4 ⟨0, 0⟩ }

/-- A module whose firmware runs on every die, with links and ports trained. -/
def theEdge : Edge := ⟨0, 8, 0, 0, 0, 0, true, false, Arb.reset, Arb.reset⟩
def booted : State :=
  { State.reset with dies := List.replicate 4 theDie, edges := List.replicate 4 theEdge }

/-- A held LATOM. -/
def withLatom : Ctx := { base with latom := some ⟨.z32, .add, 64, 5, 0, 4, 0, .dom⟩ }

/-- A request of a peer, or of entry 0 of the context (0, 0), at a place. -/
def reqAt (p : Place) (k : ReqKind) : Req := ⟨none, none, 0, 0, false, false, false, false, false, false, false, 0, p, k⟩

/-- A module with one request out. -/
def asking (r : Req) : State := { holding base with reqs := [r] }

/-- A routine of the near-memory core: one word, SW x0, 0(x10), in a record with arguments 0. -/
def routine : List Byte := leBytes 4 0x0005_2023 ++ List.replicate 124 0

/-- An express context with a CPYZ of 100 bytes to LM offset 32 under way. -/
def zeroing : Ctx :=
  { base with mode := 4, ops := [{ base.blankOp .cpyz 32 0 (ctlOf 2 1 0 100) with e := 3 }] }

/-- A read of a peer in the remote window. -/
def fromPeer : ClpMsg := .vaRequest 0 3 7 9 0x20040 (.read 8)

/-- A module with one walk in flight at its level-3 entry. -/
def walking (e : Nat) : State :=
  { State.reset with
    hbm := memoryOf [(0x8000, leBytes 8 e)]
    inbox := [fromPeer]
    dies := State.reset.dies.set 0 { Die.reset with
      walkers := [⟨1, 0x20000, 3, 0x8000, false, false, none, [(.msg fromPeer, ⟨true, false, false, false⟩)]⟩] } }

/-- An invalidation of everything that waits for nothing more. -/
def invalidating : State := { State.reset with invBusy := true, dies := State.reset.dies.set 1 { Die.reset with tlb := [⟨1, 2, 3, 0⟩] } }

/-- A CPY whose bytes have all gone; one that a page fault has stopped; one that poison has stopped. -/
def doneOp : Op := { base.blankOp .cpy 0 64 (ctlOf 3 5 1 32) with e := 2, next := 32 }
def stoppedOp : Op := { doneOp with next := 16, fault := some ⟨0x30, 3, 6, 4⟩ }
def poisonedOp : Op := { doneOp with next := 16, fault := some ⟨0x35, 4, 6, 4⟩ }
def withOp (o : Op) : Ctx := { base with ops := [o] }

/-- A waiting release. -/
def withRel : Ctx := { withOp { doneOp with origin := 1, bundle := 1 } with rels := [⟨1, 7, .pkg, 0, true⟩] }

/-- A context whose engine queue holds one entry. -/
def queued (i : Instr) (running active : Bool) : Ctx := { withM with mq := [⟨i, none, false, 1, 0, running, active, false, false⟩] }

/-- A context in an MMAG step that waits for its own slice of A. -/
def inStep : Ctx :=
  { queued (.mmag t0 .bf16 0 0 0 0 0) true false with mmagOut := [⟨0, 0, true, 0, .bf16, 16, 32, 0, []⟩] }

/-! A module with an address space 1, whose page 2 lies at PA 0x20_0000 and holds a ring, an image and a record; queue 5
of die 0 has one launch of one tile. -/

def imageBytes : List Byte :=
  leBytes 4 0x314D_4957 ++ leBytes 2 1 ++ leBytes 2 2 ++ leBytes 8 0 ++ (leBytes 4 1 ++ leBytes 4 48 ++ leBytes 4 32 ++ leBytes 4 0) ++
    (leBytes 4 3 ++ leBytes 4 80 ++ leBytes 4 4 ++ leBytes 4 0) ++ leBytes 32 0 ++ leBytes 4 0

def block : List Byte :=
  leBytes 8 0x2_1000 ++ leBytes 4 84 ++ leBytes 4 0x104 ++ leBytes 8 0x1_0101_0101 ++ leBytes 16 0 ++ leBytes 2 1 ++
    leBytes 14 0 ++ leBytes 8 0x2_2000 ++ leBytes 192 0

def hbmImage (ctl head : Nat) : Memory :=
  memoryOf [(0x8_0008, leBytes 8 0x10_0001), (0x10_0000, leBytes 8 0x11_0001), (0x11_0000, leBytes 8 0x14_0001),
    (0x14_0010, leBytes 8 0x20_0F03), (0x20_0000, block), (0x20_1000, imageBytes),
    (0x40_0140, leBytes 8 ctl ++ leBytes 8 0x2_0000 ++ leBytes 8 1 ++ leBytes 8 head ++ leBytes 8 0)]

def theQueue : WQueue := ⟨5, 0, true, false, 0, 4, 1, 0x2_0000, 0, 0, false, 1⟩

def module : State :=
  { booted with
    hbm := hbmImage 0x1_0401 0
    astbase := 0x8_0000
    devcfg := 0x200
    dies := booted.dies.map fun d => { d with qtbase := 0x40_0000, qtSet := true, savebase := 0x4000_0001 }
    queues := [theQueue] }

def theLaunch (p : LaunchPhase) : Launch :=
  { takenLaunch theQueue block with img := ⟨List.replicate 32 0, [0], []⟩, phase := p }

/-- The module once the launch is taken. -/
def taken (p : LaunchPhase) : State := { module with launches := [theLaunch p], queues := [{ theQueue with head := 1 }] }

/-- The launch's context and tract on site 0. -/
def placedCtx (st : CtxStatus) : Ctx := { (theLaunch (.placed 1)).context 1 0 0 with status := st }
def placedTract (st : TractState) : Tract := { (theLaunch (.placed 1)).tract 1 0 [0] with state := st, renew := false }
def placed (st : CtxStatus) (ts : TractState) : State :=
  { taken (.placed 1) with ctxs := [placedCtx st], tracts := [placedTract ts], nextTract := 2, orders := 1 }

/-- A launch of a group of two. -/
def peered (ts : TractState) : State :=
  { placed .run ts with launches := [{ theLaunch (.placed 1) with
      blk := block.take 36 ++ leBytes 4 9 ++ leBytes 2 2 ++ block.drop 42 }] }

/-- A SAVED tract, with an image of zeros but SAVEV. -/
def savedState : State :=
  { placed .run .running with
    hbm := (hbmImage 0x1_0401 0).write 0x4001_0000 [1, 0]
    images := [⟨0, 0, 0x4001_0000, 0x38000, true⟩]
    ctxs := [(placedCtx .run).leaveSite]
    tracts := [{ placedTract .saved with sites := [], images := [(0, 0x4001_0000)] }] }

/-- A request of the host. -/
def req1 : Mht := ⟨0, 0, 0, 0⟩

/-- The image of a firmware that no key signs. -/
def badImage : List Byte := List.replicate 256 0

/-- A replacement of a target of die 0 at a step. -/
def replacing (target step : Nat) (img : Option Fw) : State := { booted with repl := some ⟨0, target, 0, step, img, none⟩ }

/-- A placed tract that waits for its first arbitration; one with a next grant; one that has run with a grant before. -/
def pending : State :=
  { placed .run .running with
    tracts := [{ placedTract .running with req := ⟨31, 31, 31, 31, 0⟩ }]
    saddle := { Saddle.reset with pending := true } }
def granted (first : Bool) : State :=
  { placed .run .running with
    ctxs := [{ placedCtx .run with evmask := 1 }]
    tracts := [{ placedTract .running with next := some ⟨5, 5, 5, 5, 1⟩, first := first }] }

/-- A module with one site, die, edge or port changed. -/
def withSite (x : Site) : State := { booted with sites := booted.sites.set 70 x }
def withDie (x : Die) : State := { booted with dies := booted.dies.set 1 x }
def withEdge (x : Edge) : State := { booted with edges := booted.edges.set 1 x }

/-- A module in the boot stage n, with the images of that stage there but not beating. -/
def booting (n : Nat) : State :=
  { State.reset with dies := List.replicate 4 { Die.reset with stage := n, fw := List.replicate 5 (some ⟨0, 0, false⟩) } }

theorem wit_IssueEvents :
    let k : CtxKey := ⟨0, 0⟩
    let l : Ctx := { base with inflight := [⟨none, 3, 1, 5, false, false, none⟩, ⟨some (.s 3), 3, 1, 5, false, false, none⟩] }
    let e : Ctx := { waitingOn (.evwait t0 1) with events := 1 }
    (holding l).ctx k = some l ∧ (holding l).ctxs = [l] ∧
    (∀ c ∈ [waitingOn (.wait t0 0 0 false), waitingOn (.fnw t0 1), waitingOn (.fence t0 .pkg), e],
      c.status = .waiting ∧ c.sys = none ∧ c.acqPending = false ∧ c.guardOk t0 = true ∧ c.quiet c.issued .pkg = true ∧
      c.sems[0]? = some ⟨0, 0⟩ ∧ c.poisonSem.contains 0 = false ∧ c.relPending 0 = false) ∧
    (waitingOn (.wait t0 0 0 false)).insn .B = .wait t0 0 0 false ∧ (waitingOn (.fnw t0 1)).insn .B = .fnw t0 1 ∧
    (waitingOn (.fnw t0 1)).rft 1 = ⟨none, .tile⟩ ∧ (waitingOn (.fence t0 .pkg)).insn .B = .fence t0 .pkg ∧
    e.insn .B = .evwait t0 1 ∧ e.events.getLsbD 0 = true ∧ inSys.sys = some ⟨1, 0, 0, false⟩ ∧ booted.distributes 0 = true ∧
    module.queue 5 = some theQueue ∧ theQueue.asid = base.info.asid ∧ theQueue.asid ≠ base.info.asid + 1 ∧
    module.queue 6 = none ∧ (0x7FFF : BitVec 16).toNat < 0x8000 ∧ (0x8001 : BitVec 16).getLsbD 15 = true := by
  decide +kernel
theorem wit_IssueEvents_latom :
    withLatom.status ≠ .saved ∧ (holding withLatom).releases withLatom 0 none .dom = true ∧ withLatom.ops = [] ∧
    withLatom.lmFault [64] (atomBytes .z32) (atomBytes .z32) true = none ∧
    ({ withLatom with poisonLm := [8] } : Ctx).lmFault [64] (atomBytes .z32) (atomBytes .z32) true = some (0x38, 2048) := by
  decide +kernel
theorem wit_MemoryEvents :
    let wr := { reqAt (.hbm 100) (.write (clean [1, 2, 0, 4])) with src := 1 }
    let rd := { reqAt (.hbm 100) (.read 4 [] [] none 0) with ans := some (3, 7) }
    let at_ := reqAt (.hbm 128) (.atomic .z32 .add 7 0)
    let rx := reqAt (.hbm 128) (.atomx 1 routine)
    let lp : Req := { reqAt (.lm ⟨0, 0⟩ 40) (.write (clean [9, 8])) with owner := some (⟨0, 0⟩, 0) }
    let picks := fun (r : Req) =>
      (((asking r).chan 0).arb.pick ((asking r).chanBids 0) 0).map Bid.i == some 0 && (asking r).reqs == [r]
    picks wr = true ∧ (asking wr).reachesAll 100 4 = true ∧ wr.src ≠ paDie 100 ∧ ((asking wr).die wr.src).inService = true ∧
    ((asking wr).die (paDie 100)).inService = true ∧ picks rd = true ∧ rd.src = paDie 100 ∧
    picks at_ = true ∧ ((asking at_).hbmRead 128 4).all (fun b => !b.2) = true ∧
    atomNew .z32 .add ((asking at_).hbm.num 128 4) 7 0 = some 7 ∧ picks rx = true ∧
    ((asking rx).hbmRead 128 64).all (fun b => !b.2) = true ∧ (asking rx).reachesAll 128 64 = true ∧
    (match runRoutine 1 routine ((asking rx).hbm.read 128 64) with
      | .ok m => m.wrote && m.line.length == 64
      | _ => false) = true ∧
    (asking lp).portPick 0 = some 0 ∧ (asking lp).ctxLost ⟨0, 0⟩ = false ∧ base.racing 40 2 = false ∧
    (∀ o ∈ zeroing.ops, zeroing.op o.e = some o ∧ o.kind = .cpyz ∧ ctlDsp o.ctl = true ∧ o.isRelease = false ∧
      (holding zeroing).expressWaits zeroing (decide (32 ≤ o.e)) = false ∧ (holding zeroing).opReady zeroing o = true) ∧
    zeroing.express = true := by decide +kernel

/-- A copy to LM or TS, from LM or AS; a copy whose read is there, from LM or HBM, for a place. -/
def copyOf (k : OpKind) (dst src : Word) : Ctx := { base with ops := [{ base.blankOp k dst src (ctlOf 3 1 0 100) with e := 3 }] }
def reading (src dst : Place) : State :=
  let c : Ctx := { base with
    ops := [{ base.blankOp .cpyt 0 130 (ctlOf 0 1 0 64) with e := 3, next := 4, out := 1 }]
    lm := memoryOf [(130, [7, 8, 9, 10])]
    poisonLm := [16] }
  { holding c with
    reqs := [{ reqAt src (.read 4 [] [] (some dst) 0) with owner := some (⟨0, 0⟩, 3) }]
    hbm := memoryOf [(100, [1, 2, 3, 4])] }

theorem wit_MemoryEvents_reads : ∀ c ∈ [copyOf .cpy 64 130, copyOf .cpylt 2 130, copyOf .cpya 64 132], ∀ o ∈ c.ops,
    c.op o.e = some o ∧ (holding c).expressWaits c (decide (32 ≤ o.e)) = false ∧ (holding c).opReady c o = true ∧
    o.isRelease = false ∧ o.next < o.total ∧ o.carry = [] ∧ c.mq = [] ∧ c.latom = none ∧ ctlDsp o.ctl = true ∧
    ctlSsp o.ctl = true ∧ o.dst.toNat + 64 ≤ c.lmSize ∧ o.src.toNat + 72 ≤ c.lmSize ∧ 512 + 64 ≤ c.tsSize ∧
    o.src.toNat + 72 ≤ c.asSize := by decide +kernel
theorem wit_MemoryEvents_responses :
    let k : CtxKey := ⟨0, 0⟩
    let dsts := [Place.hbm 300, .lm k 40, .ts k 6]
    (∀ src ∈ [Place.lm k 130, .hbm 100], ∀ dst ∈ dsts, ∀ s ∈ [reading src dst], ∀ c ∈ s.ctxs, c.status ≠ .saved ∧
      s.ctxLost c.key = false ∧ ∀ r ∈ s.reqs, ∀ o ∈ c.ops, c.op 3 = some o ∧ o.snap = [] ∧ r.owner = some (c.key, 3) ∧
        o.next = r.pos + 4 ∧ r.src = c.site / 64 ∧ s.homeDie { r with place := dst } = r.src) ∧
    ∀ dst ∈ dsts, (reading (.lm k 130) dst).portPick 0 = some 0 ∧
      (((reading (.hbm 100) dst).chan 0).arb.pick ((reading (.hbm 100) dst).chanBids 0) 0).map Bid.i = some 0 ∧ paDie 100 = 0 := by
  decide +kernel
theorem test_poison_goes_with_a_copy :
    (match exec (.lmPortServe 0) (reading (.lm ⟨0, 0⟩ 130) (.ts ⟨0, 0⟩ 6)) with
      | .next t => t.ctxs.map fun (d : Ctx) => (d.ts.num 6 4, d.poisonTs)
      | _ => []) = [(0x0A09_0807, [0, 1])] := by decide +kernel

/-- A context of a group, and a request of another device. -/
def member : Ctx := { base with info := { base.info with gid := 9 } }
def toPeer : ClpOut := ⟨5, 0, { reqAt (.dev 3 true 64) (.write (clean [1])) with owner := some (⟨0, 0⟩, 2) }⟩

theorem wit_TranslationAndMessageEvents :
    0 < (walking 0).dies.length ∧
    (∀ e ∈ [0, 0x10_0001, 0x20_0F03], ((walking e).hbmRead 0x8000 8).all (fun b => !b.2) = true ∧
      ∀ w ∈ ((walking e).die 0).walkers, w.ended = none ∧ (walking e).walkReady 0 w = true ∧ w.nocache = false ∧
        ∃ a ∈ w.askers, (walking e).asksOn a.1 = true ∧ (permits 0x20_0F03 a.2 = true ∧ permits 0x20_0203 a.2 = false)) ∧
    entryKind 3 ((walking 0).hbmNum 0x8000 8) = .notMapped ∧ entryKind 2 0x10_0001 = .pointer 0x10_0000 ∧
    entryKind 3 ((walking 0x20_0F03).hbmNum 0x8000 8) = .leaf ∧ invalidating.invBusy = true ∧ invalidating.invDone = true := by
  decide +kernel
theorem wit_TranslationAndMessageEvents_peer :
    let s := holding member
    (holding base).groupTract 9 = none ∧ s.groupTract 9 = some member ∧ rlDev 0 = s.devId ∧
    s.member 0 0 0 = .here ⟨0, 0⟩ ∧ s.ctx ⟨0, 0⟩ = some member ∧ member.status ≠ .saved ∧ member.site / 64 = 0 ∧
    member.lmSize < rlOff 0x1F_FFF8 + clpBytes (.read 16) ∧ rlOff 64 + clpBytes (.read 8) ≤ member.lmSize ∧
    bitsOf 1 0 8 < member.part.sem * 32 ∧ member.poisonSem.contains 1 = false ∧
    (∀ o ∈ [doneOp], toPeer.req.owner = some (⟨0, 0⟩, o.e) ∧ o.fault = none) ∧ toPeer.req.ans = none ∧
    toPeer.port / 4 = toPeer.req.src := by decide +kernel
theorem wit_TranslationAndMessageEvents_window :
    let m : ClpMsg := .vaRequest 0 3 7 9 0x2_0040 (.read 8)
    let v : State := { module with
      ctxs := [member], tracts := [fetchTract]
      dies := module.dies.map fun d => { d with tlb := [⟨1, 2, 3, 0x20_0F03⟩, ⟨1, 3, 3, 0x20_0203⟩] } }
    v.groupTract 9 = some member ∧ v.msgBehind m 3 = false ∧ paDie 0x20_0040 = 0 ∧
    (v.xlate (.port 0) 1 0x2_0040 (clpNeed (.read 8)) (.msg m)).2 = .ok 0x20_0040 false ∧
    (v.xlate (.port 0) 1 0x3_0040 (clpNeed (.read 8)) (.msg m)).2 = .fault 0x32 0 ∧
    (v.xlate (.port 0) 1 0x5_0040 (clpNeed (.read 8)) (.msg m)).2 = .pending := by decide +kernel
theorem wit_OperationEvents : (holding (withOp doneOp)).ctxs = [withOp doneOp] ∧ (withOp doneOp).op doneOp.e = some doneOp ∧
    (withOp doneOp).sems[ctlSem doneOp.ctl]? = some ⟨0, 0⟩ ∧ doneOp.finished = true ∧ doneOp.kind ≠ .rsig ∧
    ({ doneOp with kind := .rsig, next := 1, sent := true } : Op).finished = true ∧ base.poisonSem = [] ∧
    8192 ≤ base.lmSize ∧ (withOp stoppedOp).op stoppedOp.e = some stoppedOp ∧ stoppedOp.out = 0 ∧ stoppedOp.cut = none ∧
    (withOp poisonedOp).op poisonedOp.e = some poisonedOp ∧ withRel.rels = [⟨1, 7, .pkg, 0, true⟩] ∧
    (holding withRel).releases withRel 0 none .pkg = true ∧ (⟨1, 2, .dom, 1, false⟩ : Release).covers = false ∧
    withRel.sems[1]? = some ⟨0, 0⟩ ∧
    (⟨1, 7, .pkg, 0, true⟩ : Release).sem = (⟨1, 2, .dom, 1, false⟩ : Release).sem := by decide +kernel
theorem wit_MatrixEvents :
    let st := queued (.mset t0 4 0xFFFF) false false
    let x : Slice := ⟨0, 0, true, 0, .bf16, 16, 32, 0, []⟩
    (holding st).mMoves st = true ∧ st.unitFault (.mset t0 4 0xFFFF) = none ∧
    (planesWritten st (.mset t0 4 0xFFFF) 1).any (st.planeAwaited 0) = false ∧
    (holding (queued (.madd t0 1 0xFFFF) true true)).mMoves (queued (.madd t0 1 0xFFFF) true true) = true ∧
    (holding inStep).mMoves inStep = true ∧ inStep.runningStep = some (.bf16, 0) ∧ inStep.mmagOut = [x] ∧
    inStep.sliceFits .bf16 0 x = true ∧ x.dest = inStep.key.rank ∧ x.step = inStep.mmagStep ∧
    x.step < ({ inStep with mmagStep := 1 } : Ctx).mmagStep := by
  decide +kernel
/-- A context whose engine has an entry that REPM governs, with n repetitions left; one of MMAs that step by a row. -/
def repeating (i : Instr) (n : Nat) (active : Bool) : Ctx :=
  { withM with mq := [⟨i, none, true, n, 0, active, active, false, true⟩] }
def stepping (n : Nat) : Ctx :=
  let c := repeating (.mma t0 .bf16 0 7 8 9 10) n true
  { c with ma := (c.ma.set 7 0x40_0000).set 8 0xFFC0_0FFF }

theorem wit_MatrixEvents_repetitions :
    let no : Guard := ⟨true, 0⟩
    let idle := repeating (.madd no 1 0xFFFF) 3 false
    let st := stepping 3
    let g := queued (.mmag t0 .bf16 0 0 0 0 0) false false
    (holding idle).mMoves idle = true ∧ idle.guardOk (Machine.guardOf (.madd no 1 0xFFFF)) = false ∧
    (planesWritten idle (.madd no 1 0xFFFF) 1).any (idle.planeAwaited 0) = false ∧ (holding st).mMoves st = true ∧
    mRepeats (.mma t0 .bf16 0 7 8 9 10) = true ∧ st.poisonTs = [] ∧ st.poisonAs = [] ∧
    mOperands (.mma t0 .bf16 0 7 8 9 10) = [7, 8] ∧ (holding g).mMoves g = true ∧
    g.unitFault (.mmag t0 .bf16 0 0 0 0 0) = none ∧
    (planesWritten g (.mmag t0 .bf16 0 0 0 0 0) 1).any (g.planeAwaited 0) = false := by decide +kernel
theorem test_repetition_advances :
    (match exec (.mUnitStart 0) (holding (repeating (.mma ⟨true, 0⟩ .bf16 0 7 8 9 10) 3 false)) with
      | .next t => t.ctxs.map fun (d : Ctx) => (d.rma 8, d.mq.map MEntry.reps)
      | _ => []) = [(0, [2])] ∧
    maAdvance 0x40_0000 1 = 0x40_0001 ∧ maAdvance 0xFFC0_0000 1 = 0xFFC0_0FFF := by decide +kernel
theorem wit_MatrixUnitResults : (withM.openChain 8 1 0 1).isSome = true ∧ (withM.rch 1).m = 2 ^ (withM.rch 1).d ∧
    0 < (withM.rch 0).d ∧ (withM.rch 0).occ.testBit 0 = false ∧ (withM.rch 0).m ≠ 2 ^ (withM.rch 0).d ∧
    (inStep.mmagOut.map fun x => { x with bytes := [1] }).find? (fun y => y.isA && y.sender % 8 == 0) ≠ none ∧
    (∀ l, l < 2 → (3 : Nat).testBit l = true) ∧ 0 < 256 * ((withM.rch 0).size * mtWidth .bf16 / 128) ∧
    ((List.range 16).all fun j => posFin (withM.ts.num (4 * j) 4)) = true ∧
    posFin (base.ts.num (256 * maRow (base.rma 0) + 32 * maSeg (base.rma 0)) 4) = false := by decide +kernel

/-- What every request of the host needs whose turn it is. -/
abbrev Serves (s : State) (h : Mht) : Prop :=
  s.powered = true ∧ (s.die (hostDie h.port)).inService = true ∧ s.streamLead h = 0 ∧ s.hostWaits h = false ∧ h.die < 4 ∧
    s.dies.length = 4 ∧ (s.die h.die).inService = true ∧ s.booted h.die = true ∧ s.repl = none

/-- A module whose edges retrain. -/
def training (s : State) : State := { s with edges := s.edges.map fun e => { e with st := 1 } }

theorem wit_HostRegisterEvents :
    let r : Word := 0x1_0000_0000_0102
    Serves module req1 ∧ module.invBusy = false ∧ bitsOf r.toNat 3 5 = 0 ∧ bitsOf r.toNat 32 16 = 0 ∧ invKind 0 = 0 ∧
    invKind 0x1_0000_0000_0001 = 1 ∧ invKind r = 2 ∧ 0 < invCount r ∧ bitsOf module.invva.toNat 16 40 + invCount r ≤ 2 ^ 40 ∧
    invKind 3 = 3 ∧ Serves booted req1 ∧ booted.devSet = false ∧ module.devSet = true ∧ module.routes.length = 512 ∧
    booted.images = [] ∧ bitsOf (booted.die 0).savebase.toNat 0 8 = 0 ∧ Serves (placed .run .running) req1 ∧
    (theLaunch (.placed 1)).q = bitsOf (5 : Word).toNat 0 17 ∧ (theLaunch (.placed 1)).seq % 2 ^ 47 = (5 : Word).toNat / 2 ^ 17 ∧
    (placedTract .running).cause = none ∧ module.sites.length = 256 ∧ (BitVec.twoPow 64 34).getLsbD 34 = true ∧
    (module.site 63).fenced = false := by decide +kernel
theorem wit_HostRegisterEvents_routes :
    let h : Mht := { req1 with port := 1, die := 2 }
    Serves (training module) h ∧ (training module).routeWaits h = true ∧ module.routeWaits req1 = false := by decide +kernel
theorem wit_HostRegisterEvents_order :
    let s : State := { module with streams := [⟨0, 0, 1⟩], outbox := [.ack req1 true 0 []] }
    2 ^ 31 ≤ s.streamLead req1 ∧ s.acked req1 = some (.ack req1 true 0 []) ∧
    module.streamLead { req1 with seq := 5 } = 5 ∧
    (training module).hostWaits { req1 with die := 1 } = true := by
  decide +kernel
theorem wit_HostRequestEvents :
    Serves module req1 ∧ module.opens req1.die 0x1001 3 = true ∧ module.opens req1.die 0x1000 64 = true ∧
    Serves (training module) req1 ∧ hostRange (0x30_0000_0000 - 1) 2 = true ∧
    (training module).opens req1.die (0x30_0000_0000 - 1) 2 = false ∧ hostRange 0x1001 3 = true ∧ module.badGranule 0x1000 64 = none ∧
    module.writeRefused 0x1001 3 = false ∧ (module.die 0).locked = false ∧
    (match module.verify badImage with
      | .error _ => true
      | .ok _ => false) = true ∧
    ((module.die 0).fw.getD (5 - 1) none).isSome = true ∧ stagingOk 0x400_0000 = true ∧ Serves (placed .run .running) req1 ∧
    (placed .run .running).launch 5 0 = some (theLaunch (.placed 1)) ∧
    ({ placedCtx .run with evmask := 4 } : Ctx).evmask.getLsbD 2 = true ∧ (placedCtx .run).det = false := by decide +kernel
/-- A public key and an image of the security core of SVN 2 with 64 bytes of zeros, whose digest is its own signature under that
key: with both multiples of the verification 1, the point that it reaches is the base point and the key together. -/
def signedKey : List Byte :=
  beBytes 32 0x3C1A761EBE011EC67E1DBC902F5E607A3B4B15488BAA0FEFBB3EBC5CB7FE4B82 ++
    beBytes 32 0xC970462A989CC2A89B141A74A5EDB3A1E8C3D753E58CF6463931AD9A889493C4
def signedDigest : BitVec 256 := 0xF17A839E4BAFF47CEFA4E0D7C95CF6DE511F91812C43F7AF545E834BD94C4932
def goodImage : List Byte :=
  leBytes 4 0x4657_4C43 ++ leBytes 4 0x101 ++ leBytes 4 2 ++ leBytes 4 64 ++ List.replicate 48 0 ++ signedKey ++
    beBytes 32 signedDigest.toNat ++ beBytes 32 signedDigest.toNat ++ List.replicate 64 0

/-- A module whose fuses hold the hash of that key, in a boot stage. -/
def fused (s : State) : State :=
  { s with persist := { Persist.reset with keyHash := 0xDFF1F494CCCF47C1A70C0BDD3E1CCFF7D6444B19E9293344C8B84BD181B9421E } }
def inStage (n : Nat) : State := fused { module with dies := module.dies.map fun d => { d with stage := n } }

theorem good_image (s : State) : (fused s).verify goodImage = .ok ⟨2, signedDigest, false⟩ := by
  have h : (match (fused State.reset).verify goodImage with
      | .ok f => f == ⟨2, signedDigest, false⟩
      | .error _ => false) = true := by decide +kernel
  have e : (fused s).verify goodImage = (fused State.reset).verify goodImage := rfl
  rw [e]
  revert h
  cases (fused State.reset).verify goodImage <;> simp
theorem wit_HostRequestEvents_images :
    (∀ n ∈ [0, 1, 5], Serves (inStage n) req1 ∧ ((inStage n).die 0).locked = false ∧ ((inStage n).die 0).fw.length = 5 ∧
      (inStage n).verify goodImage = .ok ⟨2, signedDigest, false⟩ ∧ ((inStage n).die 0).stage = n) ∧
    imgTarget goodImage = 1 ∧ stageOf 1 = 1 := by
  refine ⟨fun n h => ⟨?_, ?_, ?_, good_image _, ?_⟩, by decide +kernel⟩ <;>
    (revert h; revert n; decide +kernel)
theorem wit_HostRequestEvents_replies :
    let c : Ctx := { base with status := .waiting, sys := some ⟨0x8001, 0, 0, true⟩ }
    let s : State := { module with ctxs := [c], tracts := [fetchTract] }
    Serves s req1 ∧ c.sys = some ⟨0x8001, 0, 0, true⟩ ∧ (∀ d ∈ (placed .run .running).ctxs, d.status = .saved → d.events = 0) := by decide +kernel
theorem wit_HostRequestEvents_locked :
    let s : State := { State.reset with powered := true, dies := State.reset.dies.map fun x => { x with locked := true } }
    s.powered = true ∧ (s.die (hostDie req1.port)).inService = true ∧ s.streamLead req1 = 0 ∧ s.hostWaits req1 = false ∧
    req1.die < 4 ∧ (s.die req1.die).inService = true ∧ s.repl = none ∧ (s.die req1.die).locked = true ∧
    s.booted req1.die = false := by decide +kernel
theorem wit_QueueEvents :
    let en : State := { module with queues := [], ctlEvents := [⟨5, true, 0x1_0401, 0x2_0000, 0, 0⟩] }
    let di : State := { module with ctlEvents := [⟨5, false, 0, 0, 0, 0⟩] }
    let big : State := { taken .matched with
      sites := (List.range 256).map fun i => { Site.reset with fenced := decide (4 ≤ i), drain := true } }
    let wr := taken (.written 1)
    (∀ s ∈ [en, di, module, wr, big], s.queueOpens 5 = true) ∧ module.takeOpens theQueue = true ∧
    (taken (.refused 5 false)).recordOpens (theLaunch (.refused 5 false)) = true ∧
    en.serves 5 = true ∧ en.ctlEvent 5 = some ⟨5, true, 0x1_0401, 0x2_0000, 0, 0⟩ ∧ queueOk 0x1_0401 0x2_0000 0 = true ∧
    di.serves 5 = true ∧ di.ctlEvent 5 = some ⟨5, false, 0, 0, 0, 0⟩ ∧ 5 ∈ ({ module with bells := [5] } : State).bells ∧
    module.serves 5 = true ∧ module.ctlEvent 5 = none ∧ module.closing 5 = false ∧
    (module.hbmNum (module.qpa 5 + 16) 8 + 2 ^ 64 - theQueue.head) % 2 ^ 64 ≤ 2 ^ theQueue.logsz ∧
    theQueue.head ≠ theQueue.tail ∧ module.vread 1 0x2_0000 256 2 = some block ∧ (taken .taken).serves 5 = true ∧
    (taken .taken).devSet = true ∧ (taken .taken).joined 9 = false ∧
    ({ taken .taken with groups := [⟨9, 0, 5, 3, 0⟩] } : State).joined 9 = true ∧
    (taken (.over true)).serves 5 = true ∧ wr.serves 5 = true ∧ (theLaunch (.written 1)).seq = theQueue.done ∧
    (theLaunch (.written 1)).gen = theQueue.gen ∧ wr.reqs = [] ∧ wr.transit = [] ∧ big.serves 5 = true ∧
    big.waitingLaunches = [theLaunch .matched] ∧ big.lacksSites (theLaunch .matched) = true ∧
    big.distributes big.leaderDie = true ∧
    [0].length = (theLaunch .matched).diesNeeded ∧ [0].Nodup ∧ big.reservable (theLaunch .matched) 0 = true ∧
    ({ big with reservations := [⟨6, 0, [0]⟩] } : State).lacksSites (theLaunch .matched) = true ∧
    ({ big with reservations := [⟨6, 0, [0]⟩] } : State).suits (theLaunch .matched) 0 = true ∧
    ({ big with reservations := [⟨6, 0, [0]⟩] } : State).reservable (theLaunch .matched) 0 = false := by
  decide +kernel
theorem wit_QueueEvents_peers :
    let l := { theLaunch .matched with blk := block.take 36 ++ leBytes 4 9 ++ leBytes 2 2 ++ block.drop 42 }
    let s : State := { taken .matched with launches := [l], reservations := [⟨5, 0, [0]⟩] }
    s.serves 5 = true ∧ s.queueOpens 5 = true ∧ l.q = 5 ∧ l.phase = .matched ∧ l.gid = (9 : Word32).toNat ∧ 2 ≤ l.g ∧
    s.queueHeld l.q = false := by decide +kernel
theorem wit_PlacementEvents :
    let x : Tract := { placedTract .starting with first := false }
    (taken .matched).waiter 5 0 [7] = some (theLaunch .matched) ∧
    (taken (.reissue 0)).waiter 5 0 [7] = some (theLaunch (.reissue 0)) ∧
    ((taken (.reissue 0)).server 5).all ((taken (.reissue 0)).imageOpens · (theLaunch (.reissue 0))) = true ∧
    ({ placed .gated .starting with tracts := [x] } : State).passesOn x = false ∧
    ((taken (.reissue 0)).imageFor (theLaunch (.reissue 0))).isSome = true ∧
    (placed .alloc .starting).launchOf 1 = some (theLaunch (.placed 1)) ∧ (placedCtx .alloc).status = .alloc ∧
    (theLaunch (.placed 1)).swouts = 0 ∧ (theLaunch (.placed 1)).g = 1 ∧ x.cause = none ∧ x.renew = false ∧ x.next = none ∧
    (placedCtx .gated).sys = none := by decide +kernel
theorem wit_TractEvents :
    let x := placedTract .running
    let s := placed .run .running
    let xo := { x with quantumOver := true }
    let xe : Tract := { x with cause := some ⟨4, 0, 0xFFFF, 0⟩ }
    let l := theLaunch (.placed 1)
    s.ctxs = [placedCtx .run] ∧ s.tracts = [x] ∧ (placedCtx .run).key.tract = x.id ∧ s.launches = [l] ∧ l.phase = .placed x.id ∧
    x.switchable = true ∧ s.distUp x = true ∧ ({ s with tracts := [xo] } : State).mustLeave xo = true ∧
    ({ s with tracts := [xo] } : State).endCause xo = none ∧ (placedCtx .run).latomRuns = false ∧
    ({ s with tracts := [xe] } : State).endWaits xe = false ∧ s.recordOpens l = true ∧ (peered .running).queueHeld l.q = false ∧
    ({ peered .running with repl := some ⟨0, 4, 0, 2, some ⟨0, 0, false⟩, none⟩ } : State).queueHeld l.q = true ∧
    ({ s with
      ctxs := [{ placedCtx .run with latom := some ⟨.z32, .add, 64, 5, 0, 4, 0, .dom⟩ }], tracts := [xe] } : State).endWaits xe =
      true ∧
    (placedCtx .run).fatal = none ∧ (placedCtx .run).inflight = [] ∧
    (({ s with tracts := [xo] } : State).roomForAll 0 false [placedCtx .run]).isSome = true ∧
    (placed .run .saving).savable (placedTract .saving) = true ∧ ({ s with tracts := [xe] } : State).endCause xe = xe.cause ∧
    2 ≤ ((peered .running).launches.headD l).g ∧ ((peered .running).launches.headD l).gid = 9 ∧ s.serves l.q = true ∧
    (placedCtx .exited).done = true ∧ s.reqs = [] ∧ s.transit = [] ∧ s.clpOut = [] ∧ localVa l.crec = true ∧
    s.walkAll l.asid l.crec.toNat ⟨false, true, false, false⟩ = some 0x20_2000 ∧ s.reachesAll 0x20_2000 64 = true := by
  decide +kernel
theorem wit_TractEvents_saved :
    let l := theLaunch (.placed 1)
    let x := savedState.tracts.headD fetchTract
    let bad : State := { savedState with hbm := savedState.hbm.write 0x4001_0000 [0, 0] }
    savedState.mayPlace l [9] = true ∧ savedState.sitesOk l [9] = true ∧ savedState.savedFails x = false ∧
    savedState.sought x.id = false ∧ savedState.regionOpens x [9] = true ∧ x.images = [(0, 0x4001_0000)] ∧ savedState.imagesOk x = true ∧ savedState.savedTract l = some x ∧
    bad.mayPlace l [9] = true ∧ bad.savedFails x = false ∧ bad.imagesOk x = false ∧ bad.savedTract l = some x := by
  decide +kernel
/-- A SAVED tract that TKILL ends, or the end of a peer. -/
def savedEnding (status : Nat) : State :=
  { savedState with tracts := savedState.tracts.map fun (x : Tract) => { x with cause := some ⟨status, 0, 0xFFFF, 0⟩ } }

theorem wit_TractEvents_teardown :
    ∀ n ∈ [3, 4], let s := savedEnding n
    s.launches = [theLaunch (.placed 1)] ∧ ∀ x ∈ s.tracts, ∀ c ∈ s.ctxs, x.state = .saved ∧ c.key.tract = x.id ∧
      s.endCause x = some ⟨n, 0, 0xFFFF, 0⟩ ∧ s.endWaits x = false ∧ x.images = [(c.key.rank, 0x4001_0000)] ∧
      ((s.dropImages x).roomFor (x.q / 32768) (s.restore c 0x4001_0000 c.site) true).isSome = true := by decide +kernel
theorem wit_PlacementEvents_power :
    let x : Tract := { placedTract .starting with floor := ⟨31, 31, 31, 31, 0⟩, first := false }
    let s : State := { placed .gated .starting with
      tracts := [x], saddle := { Saddle.reset with cap := 500 } }
    let u := s.startRanks x.id
    s.startable x = true ∧ s.passesOn x = true ∧ s.leavesNext x = true ∧
    (u.roomForAll 0 false (u.members x.id)).isSome = true ∧
    ({ s with repl := some ⟨0, 4, 0, 2, some ⟨0, 0, false⟩, none⟩ } : State).leavesNext x = false := by decide +kernel
theorem wit_GrantAndBudgetEvents_regulator :
    let s := granted false
    let up : State := { s with sites := s.sites.set 0 { Site.reset with volt := [5, 5, 5, 5] } }
    let down : State := { s with
      sites := s.sites.set 0 { Site.reset with volt := [9, 5, 5, 5] }, tracts := [placedTract .running] }
    s.tracts.all (fun x => x.next == some ⟨5, 5, 5, 5, 1⟩ && !s.frozen x) = true ∧ (∀ c ∈ s.ctxs, c.site = 0 ∧ c.status ≠ .saved) ∧
    0 < s.sites.length ∧ (s.site 0).tripped = false ∧ (s.site 0).drain = false ∧ (s.site 0).volt.length = 4 ∧
    covers (s.site 0).volt [5, 5, 5, 5] = false ∧ covers (up.site 0).volt [5, 5, 5, 5] = true ∧
    covers ((down.regulate 0).site 0).volt (down.site 0).volt = false := by decide +kernel
/-- A grant that rises takes two steps of its tile: the regulator settles, and then the clocks and RATIO rise (R292, R301). -/
theorem test_grant_rises_behind_its_voltage :
    (match exec (.grantTakeEffect ⟨1, 0⟩) (granted false) with
      | .next t => some ((t.site 0).volt, (t.site 0).clock, t.ctxs.map Ctx.grant)
      | _ => none) = some ([5, 5, 5, 5], [0, 0, 0, 0], [Grant.zero]) ∧
    (match exec (.grantTakeEffect ⟨1, 0⟩)
        { granted false with sites := (granted false).sites.set 0 { Site.reset with volt := [5, 5, 5, 5] } } with
      | .next t => some ((t.site 0).volt, (t.site 0).clock, t.ctxs.map Ctx.grant)
      | _ => none) = some ([5, 5, 5, 5], [5, 5, 5, 5], [⟨5, 5, 5, 5, 1⟩]) := by decide +kernel
theorem wit_GrantAndBudgetEvents : pending.saddle.pending = true ∧ pending.arbiterUp = true ∧
    pending.tracts.all (fun x => x.next.isNone && !pending.frozen x) = true ∧ pending.floorsFit = true ∧
    pending.tracts.all Tract.counted = true ∧ (granted false).arbiterUp = true ∧
    ({ granted false with saddle := { Saddle.reset with pending := true } } : State).arbiterUp = true ∧
    (granted false).tracts.all (fun x => x.next.isSome && !x.first && !(granted false).frozen x &&
      ({ granted false with repl := some ⟨0, 3, 0, 2, some ⟨0, 0, false⟩, none⟩ } : State).frozen x) = true ∧
    ({ placedCtx .run with evmask := 1 } : Ctx).evmask.getLsbD 0 = true ∧ 383 < booted.chans.length ∧
    booted.edges.length = 4 ∧ 3 < booted.dies.length ∧ booted.repl = none := by decide +kernel
theorem wit_GrantAndBudgetEvents_kept :
    let x : Tract := { placedTract .running with sites := [64] }
    let s := fun (x : Tract) => ({ pending with
      tracts := [x], repl := some ⟨1, 3, 0, 2, some ⟨0, 0, false⟩, none⟩ } : State)
    (s x).saddle.pending = true ∧ (s x).arbiterUp = true ∧ (s x).frozen x = true ∧ (s x).floorsFit = true ∧
    (s x).arbitrationWaits (s x).arbitration = false ∧
    (s { x with renew := true }).arbitrationWaits (s { x with renew := true }).arbitration = true := by decide +kernel
theorem wit_GrantAndBudgetEvents_waits :
    let low := { granted true with saddle := { Saddle.reset with pending := true } }
    let lack : State := { pending with
      tracts := [{ placedTract .running with floor := ⟨31, 31, 31, 31, 0⟩, preempt := true }]
      saddle := { Saddle.reset with cap := 500, pending := true } }
    low.saddle.pending = true ∧ low.arbiterUp = true ∧ low.tracts.all (fun x => x.next.isSome && !low.frozen x) = true ∧
    lack.floorsFit = false ∧ lack.saddle.pending = true ∧ lack.arbiterUp = true ∧
    (lack.powerVictims ≠ [] ∨ lack.leaving ≠ []) ∧
    (let full : State := { lack with tracts := lack.tracts.map fun x => { x with state := .starting } };
      full.powerVictims = [] ∧ full.leaving = [] ∧ full.floorsFit = false ∧ full.arbiterUp = true ∧
        full.tracts.all (fun x => x.next.isNone && !full.frozen x && !x.express && x.preempt) = true) ∧
    lack.tracts.all (fun x => x.state == .running && !x.express && x.preempt) = true ∧ (booting 2).agentRuns 3 = false ∧
    booted.agentRuns 3 = true ∧ booted.repl = none := by decide +kernel
theorem wit_ArbitrationFitsTheCap : pending.floorsFit = true ∧ pending.tracts.all (fun t => !pending.frozen t) = true ∧
    ({ pending with saddle := { Saddle.reset with cap := 861 } } : State).floorsFit = true := by decide +kernel
theorem wit_PowerProtectionEvents :
    let x := booted.saddle
    booted.readsCoolant = true ∧ booted.arbiterUp = true ∧ State.reset.readsCoolant = false ∧
    x.implausible ⟨-161, 20⟩ = true ∧ x.implausible ⟨640, 12⟩ = false ∧ x.fallback = false ∧ x.beyond = false ∧
    x.outside ⟨801, 12⟩ = true ∧ x.outside ⟨800, 12⟩ = false ∧ x.cooling = .coldPlate ∧ 3 < booted.dies.length ∧
    x.cap * 1000 < 3 * 1066667 ∧ 3 * 1066666 ≤ x.cap * 1000 ∧ (booted.die 3).ocHits = 0 ∧
    ((withDie { theDie with ocHits := 1 }).die 1).ocHits = 1 ∧
    (withDie { theDie with ocl := true, bf := 4, ocHits := 2 }).dies.any (fun d => d.ocl && d.bf == 4 && decide (2 ≤ d.ocHits)) = true ∧
    x.ocCut = false ∧ booted.dies.all (fun d => d.ocHits == 0) = true ∧ booted.sites.length = 256 ∧
    115 * 16 ≤ (1840 : BitVec 16).toInt ∧ (1679 : BitVec 16).toInt < 105 * 16 ∧ (booted.site 255).tripped = false := by
  decide +kernel
theorem wit_MarginEvents : booted.repl = none ∧ booted.sites.length = 256 ∧
    3 < (booted.site 255).pts.length ∧ 31 < ((booted.site 255).pts.getD 3 []).length ∧
    3 < (booted.site 255).ceil.length ∧ booted.writesSteppe = true ∧ booted.glenRuns 3 = true ∧
    (booting 1).glenRuns 3 = false ∧ (booting 1).repl = none ∧ base.stayedOn 0 = true ∧
    ((withSite { Site.reset with last := [⟨1, 0⟩] }).site 70).last ≠ [] ∧
    65536 ≤ ((withSite { Site.reset with vcount := 65536 }).site 70).vcount ∧
    (booted.site 255).overTop 3 = none ∧
    ({ Site.reset with age := [0, 0, 0, 127], pts := List.replicate 4 (List.replicate 32 300) } : Site).overTop 3 = some 0 ∧
    ({ booted with repl := some ⟨1, 2, 0, 2, some ⟨0, 0, false⟩, none⟩ } : State).handingOver (70 / 64) 2 = true := by
  decide +kernel
theorem wit_FailureEvents :
    let dn := withEdge { theEdge with st := 2, synced := false }
    booted.sites.length = 256 ∧ booted.dies.length = 4 ∧ booted.edges.length = 4 ∧ booted.repl = none ∧
    (withSite { Site.reset with errs := 4 }).fenceDue 70 = true ∧ (withSite { Site.reset with drain := true }).emptyDrain = some 70 ∧
    (booted.die 0).inService = true ∧ 0 = (3 + 1) % 4 ∧ 3 = (2 + 1) % 4 ∧ (booted.edge 2).st ≠ 2 ∧
    paChan (hbmSize - 1) < booted.chans.length ∧ (holding base).repl = none ∧ base.status ≠ .saved ∧ base.site < 256 ∧
    (booted.edge 3).st = 0 ∧ (booted.edge 3).due = false ∧ ((withEdge { theEdge with due := true }).edge 1).due = true ∧
    booted.portsTrain 1 = true ∧ (booting 4).portsTrain 1 = true ∧ (booting 3).portsTrain 1 = false ∧
    ((withEdge { theEdge with st := 1, attempts := 2 }).edge 1).attempts = 2 ∧ (dn.edge 1).st = 2 ∧
    (dn.edge 1).synced = false ∧ dn.linked 1 ((1 + 1) % 4) = true ∧ (dn.die (dn.farDie 1)).inService = true ∧ dn.farDie 1 < 4 ∧
    (booted.die 3).inService = true ∧ (booted.die 3).ports[3]? = some ⟨0, 0⟩ ∧ booted.clpOut = [] ∧ booted.chans.length = 384 ∧
    ((withDie { theDie with ports := List.replicate 4 ⟨1, 0⟩ }).die 1).ports[3]? = some ⟨1, 0⟩ := by
  decide +kernel
theorem wit_FirmwareEvents_verified :
    let s := fused { replacing 1 1 none with hbm := memoryOf [(0, goodImage)] }
    s.dies.length = 4 ∧ s.repl = some ⟨0, 1, 0, 1, none, none⟩ ∧ s.opens 0 0 (2 ^ 26) = true ∧
    s.verify (s.staged 0) = .ok ⟨2, signedDigest, false⟩ ∧ imgTarget (s.staged 0) = 1 ∧ (s.die 0).meas.length = 5 ∧
    (∀ c ∈ s.ctxs, c.status = .saved → c.events = 0) := by
  have h : ({ replacing 1 1 none with hbm := memoryOf [(0, goodImage)] } : State).staged 0 = goodImage := by decide +kernel
  have e : (fused { replacing 1 1 none with hbm := memoryOf [(0, goodImage)] }).staged 0 = goodImage := h
  refine ⟨by decide +kernel, by decide +kernel, by decide +kernel, ?_, ?_, by decide +kernel, by decide +kernel⟩
  · rw [e]; exact good_image _
  · rw [e]; decide +kernel
theorem wit_FirmwareEvents :
    let w : Fw := ⟨3, 9, false⟩
    let ready : State := { booted with repl := some ⟨0, 5, 0, 3, some w, some (recordVersion, .fabric [] [] [])⟩ }
    booted.dies.length = 4 ∧ ({ booted with powered := false } : State).powered = false ∧ (booting 0).powered = true ∧
    (booting 4).powered = true ∧
    ((List.range 4).all fun d => ((booting 4).die d).inService && ((booting 4).die d).stage == 4 &&
      (((booting 4).die d).fw.getD (targetOf 4 - 1) none).isSome) = true ∧
    ((booting 1).die 1).fw.getD (targetOf 1 - 1) none = some ⟨0, 0, false⟩ ∧
    (match (replacing 4 1 none).verify ((replacing 4 1 none).staged 0) with
      | .error _ => true
      | .ok _ => false) = true ∧
    (replacing 5 1 (some w)).repl = some ⟨0, 5, 0, 1, some w, none⟩ ∧ (replacing 5 2 (some w)).repl = some ⟨0, 5, 0, 2, some w, none⟩ ∧
    (⟨0, 5, 0, 2, some w, none⟩ : Repl).beats = false ∧ (⟨0, 5, 0, 2, some w, none⟩ : Repl).timed = false ∧
    (⟨0, 4, 0, 2, some w, none⟩ : Repl).timed = true ∧ (⟨0, 5, 0, 3, some w, none⟩ : Repl).timed = true ∧
    (replacing 4 1 none).opens 0 0 (2 ^ 26) = true ∧
    (training (replacing 4 1 none)).opens 0 0x30_0000_0000 (2 ^ 26) = false ∧
    (⟨0, 5, 0, 3, some w, some (recordVersion, .fabric [] [] [])⟩ : Repl).beats = true ∧ ready.dies.length = 4 ∧
    (ready.die 0).fw.length = 5 := by decide +kernel

end Sys2Proof.Tests
end

section
/-! Faults that instructions raise as they issue: the contexts that a raised fault leaves, the first fault of an operation's
checks, and the checks of each M instruction on the state that the engine queue leaves. -/
namespace Sys2Proof.Machine.IssueFaults

variable {s : State} {c : Ctx} {g : Guard} {i : Instr} {code sl x : Nat}

/-! ### What a raised fault records -/

/-- The first fatal report stands in the context (R347). -/
theorem raise_fatal (hf : c.fatal = none) : (c.raise code sl x).fatal = some ⟨code, 1, sl, x % 2 ^ 32⟩ := by
  have landed : c.landAll.fatal = none := c.landAll_landed.fatal.trans hf
  simp [Ctx.raise, Ctx.fatalReport, Ctx.report, landed]

/-- No byte of a store and no semaphore changes where a fault is raised. -/
theorem raise_sameStores : c.SameStores (c.raise code sl x) := by
  have raised := c.raise_raised code sl x
  exact ⟨fun y => by rw [raised.lm], fun y => by rw [raised.ts], fun y => by rw [raised.as], fun y => by rw [raised.istore],
    raised.sems⟩

/-- An operation of the Q or N slot, slot sl, raises a fault and takes no entry of its engine. -/
def OpRaises (s : State) (c : Ctx) (sl : Nat) (i : Instr) (code : Nat) : Prop :=
  ∃ d, exec i s = .next (s.working d) ∧ d.fatal.map Report.code = some code ∧ d.fatal.map Report.cls = some 1 ∧
    d.fatal.map Report.slot = some sl ∧ d.issue.raised = .fault ∧ d.ops = c.ops

/-- An instruction of the B slot raises a fault and leaves the sequence as it is. -/
def SequenceRaises (s : State) (c : Ctx) (i : Instr) (code : Nat) : Prop :=
  ∃ d, exec i s = .next (s.working d) ∧ d.fatal.map Report.code = some code ∧ d.fatal.map Report.cls = some 1 ∧
    d.issue.raised = .fault ∧ d.xfer = c.xfer ∧ d.loops = c.loops ∧ d.pc = c.pc

/-- An M instruction raises a fault, unless that hinges on guards not yet read or the pending count is not for it, and changes
nothing that M instructions act on. -/
def MRaises (s : State) (c : Ctx) (i : Instr) (code detail : Nat) : Prop :=
  c.hinges i (code, detail) = false → (c.repm = none ∨ mRepeats i = true) →
    ∃ d, exec i s = .next (s.working d) ∧ d.fatal = some ⟨code, 1, 4, detail % 2 ^ 32⟩ ∧ d.issue.raised = .fault ∧
      d.ma = c.ma ∧ d.ch = c.ch ∧ d.tabA = c.tabA ∧ d.tabB = c.tabB ∧ c.SameStores d ∧
      d.mq.map (fun (m : MEntry) => { m with satNext := false }) = c.mq.map fun (m : MEntry) => { m with satNext := false }

theorem OpRaises.of_raise (hf : c.fatal = none) (he : exec i s = .next (s.working (c.raise code sl x))) :
    OpRaises s c sl i code := by
  have report := raise_fatal (code := code) (sl := sl) (x := x) hf
  exact ⟨_, he, by simp [report], by simp [report], by simp [report], rfl, (c.raise_raised code sl x).ops⟩

theorem SequenceRaises.of_raise (hf : c.fatal = none) (he : exec i s = .next (s.working (c.raise code sl x))) :
    SequenceRaises s c i code := by
  have report := raise_fatal (code := code) (sl := sl) (x := x) hf
  have raised := c.raise_raised code sl x
  exact ⟨_, he, by simp [report], by simp [report], rfl, raised.xfer, raised.loops, raised.pc⟩

/-! ### The first fault of a list of checks -/

theorem firstFault_fails {ok : Bool} {rest : List Check} (h : ok = false) :
    firstFault (orFault ok code x :: rest) = some (code, x) := by
  subst h
  rfl

theorem firstFault_passes {ok : Bool} {rest : List Check} (h : ok = true) :
    firstFault (orFault ok code x :: rest) = firstFault rest := by
  subst h
  rfl

/-- An operation raises the first fault of its checks in slot sl. -/
def RaisesFirst (s : State) (c : Ctx) (sl : Nat) (i : Instr) (checks : List Check) : Prop :=
  ∀ code x, firstFault checks = some (code, x) → exec i s = .next (s.working (c.raise code sl x))

theorem opIssue_raisesFirst {base : Nat} {checks : List Check} {o : Op}
    (he : exec i s = .next (s.working (c.opIssue sl base checks o))) : RaisesFirst s c sl i checks := by
  intro code x h
  simp only [he, Ctx.opIssue, h]

theorem recIssue_raisesFirst {base : Nat} {reads : List (Nat × Nat)} {checks : List Check} {o : Op}
    (he : exec i s = .next (s.working (c.recIssue sl base reads checks o))) : RaisesFirst s c sl i checks := by
  intro code x h
  simp only [he, Ctx.recIssue, h]

section
variable {checks rest : List Check} {ctl : Word} {used len w : Nat} (hf : c.fatal = none)
include hf

theorem RaisesFirst.opRaises (h : RaisesFirst s c sl i checks) (first : firstFault checks = some (code, x)) :
    OpRaises s c sl i code :=
  .of_raise hf (h _ _ first)

/-- A reserved control bit (R242). -/
theorem RaisesFirst.reserved (h : RaisesFirst s c sl i (c.ctlCheck ctl used len w ++ rest))
    (clean : ctlClean ctl used len = false) : OpRaises s c sl i 0x04 :=
  h.opRaises hf (firstFault_fails clean)

/-- A semaphore outside the partition (R61). -/
theorem RaisesFirst.semRange (h : RaisesFirst s c sl i (c.ctlCheck ctl used len w ++ rest))
    (clean : ctlClean ctl used len = true) (sem : c.sems.length ≤ ctlSem ctl) : OpRaises s c sl i 0x13 :=
  h.opRaises hf ((firstFault_passes clean).trans (firstFault_fails (decide_eq_false (Nat.not_lt.mpr sem))))

/-- Both faults of a control operand. -/
theorem RaisesFirst.control (h : RaisesFirst s c sl i (c.ctlCheck ctl used len w ++ rest)) :
    (ctlClean ctl used len = false → OpRaises s c sl i 0x04) ∧
    (ctlClean ctl used len = true → c.sems.length ≤ ctlSem ctl → OpRaises s c sl i 0x13) :=
  ⟨h.reserved hf, h.semRange hf⟩

omit hf in
/-- With an admitted control operand the other checks decide. -/
theorem RaisesFirst.past_control (h : RaisesFirst s c sl i (c.ctlCheck ctl used len w ++ rest))
    (ok : ctlClean ctl used len = true ∧ ctlSem ctl < c.sems.length) : RaisesFirst s c sl i rest := by
  intro code x first
  obtain ⟨clean, sem⟩ := ok
  exact h code x ((firstFault_passes clean).trans ((firstFault_passes (decide_eq_true sem)).trans first))

end

/-! ### The checks of each operation -/

section
variable (hc : s.cur = some c) (hg : c.guardOk g = true)
include hc hg

theorem cpy_raisesFirst (ad src ac : BitVec 5) :
    RaisesFirst s c 6 (.cpy g ad src ac) (c.ctlCheck (c.ra ac) 0b11 40 (wordOf (.cpy g ad src ac)) ++
      [globalUnless (ctlDsp (c.ra ac)) (c.ra ad) 0, globalUnless (ctlSsp (c.ra ac)) (c.ra src) 1]) :=
  opIssue_raisesFirst (slotRun_ok hc hg)

theorem rst_raisesFirst (ad src ac : BitVec 5) :
    RaisesFirst s c 7 (.rst g ad src ac) (c.ctlCheck (c.ra ac) 0 40 (wordOf (.rst g ad src ac)) ++
      [lenLimit (c.ra ac) (wordOf (.rst g ad src ac)), peerCheck (c.ra ad) false (wordOf (.rst g ad src ac))]) :=
  opIssue_raisesFirst (slotRun_ok hc hg)

theorem rsts_raisesFirst (ad : BitVec 5) (sv : BitVec 6) (ac : BitVec 5) :
    let ctl := c.ra ac
    let n := ctlLen ctl
    let w := wordOf (.rsts g ad sv ac)
    RaisesFirst s c 7 (.rsts g ad sv ac) (c.ctlCheck ctl 0 40 w ++
      [orFault (n == 1 || n == 2 || n == 4 || n == 8) Code.resOpnd w, peerCheck (c.ra ad) false w,
       orFault (rlOff (c.ra ad).toNat % n == 0) Code.misalign (rlOff (c.ra ad).toNat)]) :=
  opIssue_raisesFirst (slotRun_ok hc hg)

theorem rcpy_raisesFirst (ad src ac : BitVec 5) :
    let ctl := c.ra ac
    let w := wordOf (.rcpy g ad src ac)
    RaisesFirst s c 7 (.rcpy g ad src ac) (c.ctlCheck ctl 0b11 40 w ++
      [if ctlDsp ctl then peerCheck (c.ra ad) false w else canonCheck (c.ra ad) 0,
       globalUnless (ctlSsp ctl) (c.ra src) 1]) :=
  opIssue_raisesFirst (slotRun_ok hc hg)

theorem rget_raisesFirst (ad src ac : BitVec 5) :
    RaisesFirst s c 7 (.rget g ad src ac) (c.ctlCheck (c.ra ac) 0 40 (wordOf (.rget g ad src ac)) ++
      [lenLimit (c.ra ac) (wordOf (.rget g ad src ac)), peerCheck (c.ra src) false (wordOf (.rget g ad src ac))]) :=
  opIssue_raisesFirst (slotRun_ok hc hg)

theorem rsig_raisesFirst (ad : BitVec 5) (inc : BitVec 8) (sc : Scope) (rel : Bool) :
    RaisesFirst s c 7 (.rsig g ad inc sc rel) [peerCheck (c.ra ad) true (wordOf (.rsig g ad inc sc rel))] :=
  opIssue_raisesFirst (slotRun_ok hc hg)

theorem mcast_raisesFirst (ad src ac ax : BitVec 5) :
    let w := wordOf (.mcast g ad src ac ax)
    RaisesFirst s c 7 (.mcast g ad src ac ax) (c.ctlCheck (c.ra ac) 0 40 w ++
      lenLimit (c.ra ac) w :: c.listCheck (c.ra ad) (c.ra ax) w) :=
  recIssue_raisesFirst (slotRun_ok hc hg)

theorem ratom_raisesFirst (t : AtomTy) (op : AtomOp) (ad ac : BitVec 5) (sv : BitVec 6) (ord : Ord) :
    let ctl := c.ra ac
    let w := wordOf (.ratom g t op ad ac sv ord)
    RaisesFirst s c 7 (.ratom g t op ad ac sv ord) (c.ctlCheck ctl 0b100 (retLenBits ctl) w ++
      [peerCheck (c.ra ad) false w,
       orFault (rlOff (c.ra ad).toNat % atomBytes t == 0) Code.misalign (rlOff (c.ra ad).toNat),
       c.retCheck ctl (atomBytes t)]) :=
  opIssue_raisesFirst (slotRun_ok hc hg)

end

/-! ### Operands of copies and of the N slot (R64, R66, R256 to R259) -/

section
variable {rest : List Check} {v : Word} {w n : Nat}

theorem firstFault_canon (h : canonical v = false) : firstFault (canonCheck v n :: rest) = some (0x14, n) :=
  firstFault_fails h

theorem firstFault_global {lm : Bool} (hl : lm = false) (h : canonical v = false) :
    firstFault (globalUnless lm v n :: rest) = some (0x14, n) := by
  subst hl
  exact firstFault_canon h

theorem firstFault_peer {isSem : Bool} (h : rlClean v isSem = false) :
    firstFault (peerCheck v isSem w :: rest) = some (0x04, w) :=
  firstFault_fails h

/-- A check that answers RES_OPND of this word or nothing may come before one that answers the same. -/
theorem firstFault_reserved {ok : Bool} (h : firstFault rest = some (0x04, w)) :
    firstFault (orFault ok Code.resOpnd w :: rest) = some (0x04, w) := by
  cases ok
  · rfl
  · exact h

/-- The number of targets of an MCAST is from 1 to 64 (R259). -/
theorem firstFault_list {dst aux : Word} (h : dst.toNat = 0 ∨ 64 < dst.toNat) :
    firstFault (c.listCheck dst aux w) = some (0x04, w) := by
  have bad : (decide (1 ≤ dst.toNat) && decide (dst.toNat ≤ 64)) = false := by
    rw [Bool.and_eq_false_iff]
    rcases h with h | h
    · exact .inl (by simp [h])
    · exact .inr (by simp [h])
  exact firstFault_fails bad

theorem firstFault_past_peer {isSem : Bool} (h : rlClean v isSem = true) :
    firstFault (peerCheck v isSem w :: rest) = firstFault rest :=
  firstFault_passes h

/-- The offset in a peer's LM is aligned to the n bytes accessed (R256, R258). -/
theorem firstFault_offset {off : Nat} (h : off % n ≠ 0) :
    firstFault (orFault (off % n == 0) Code.misalign off :: rest) = some (0x05, off) :=
  firstFault_fails (beq_eq_false_iff_ne.mpr h)

/-- The lengths of an RSTS (R256). -/
theorem firstFault_storeLen (h : n ∉ [1, 2, 4, 8]) :
    firstFault (orFault (n == 1 || n == 2 || n == 4 || n == 8) Code.resOpnd w :: rest) = some (0x04, w) :=
  firstFault_fails (by simpa [and_assoc] using h)

theorem firstFault_past_storeLen (h : n ∈ [1, 2, 4, 8]) :
    firstFault (orFault (n == 1 || n == 2 || n == 4 || n == 8) Code.resOpnd w :: rest) = firstFault rest :=
  firstFault_passes (by simpa [or_assoc] using h)

/-! The destination of an RCPY is a place in a peer's LM, lm set, or in global memory (R256). -/

theorem firstFault_place_peer {lm : Bool} (hl : lm = true) (h : rlClean v false = false) :
    firstFault ((if lm then peerCheck v false w else canonCheck v n) :: rest) = some (0x04, w) := by
  subst hl
  exact firstFault_peer h

theorem firstFault_place_global {lm : Bool} (hl : lm = false) (h : canonical v = false) :
    firstFault ((if lm then peerCheck v false w else canonCheck v n) :: rest) = some (0x14, n) := by
  subst hl
  exact firstFault_canon h

theorem firstFault_past_place {lm : Bool} (h : if lm = true then rlClean v false = true else canonical v = true) :
    firstFault ((if lm then peerCheck v false w else canonCheck v n) :: rest) = firstFault rest := by
  cases lm with
  | true => exact firstFault_past_peer h
  | false => exact firstFault_passes h

end

/-! ### Transfers, loops and repetition (R153, R156, R157, R159) -/

section
variable {w : Nat} {t : Word32} {isCall : Bool}

theorem transfer_inDelay (h : c.inDelay = true) : c.transfer w t isCall = c.raise 0x06 0 w := by
  simp [Ctx.transfer, h, Code.delayXfer]

theorem transfer_inLoop (hd : c.inDelay = false) (h : c.loops ≠ []) : c.transfer w t true = c.raise 0x09 0 w := by
  simp [Ctx.transfer, hd, h, Code.loopCall]

theorem transfer_misaligned (hd : c.inDelay = false) (h : t.toNat % 32 ≠ 0) :
    c.transfer w t false = c.raise 0x05 0 t.toNat := by
  simp [Ctx.transfer, hd, h, Code.misalign]

variable {nb n : Nat} (hn : 0 < n)
include hn

theorem armLoop_inDelay (h : c.inDelay = true) : c.armLoop w nb n = c.raise 0x06 0 w := by
  simp [Ctx.armLoop, Nat.ne_of_gt hn, h, Code.delayXfer]

theorem armLoop_tooDeep (hd : c.inDelay = false) (h : 2 ≤ c.loops.length) : c.armLoop w nb n = c.raise 0x07 0 w := by
  simp [Ctx.armLoop, Nat.ne_of_gt hn, hd, h, Code.loopDepth]

theorem armLoop_beyond {l : Loop} (hd : c.inDelay = false) (hl : c.loops = [l])
    (h : l.last.toNat < c.pc.toNat + 32 * nb) : c.armLoop w nb n = c.raise 0x08 0 w := by
  simp [Ctx.armLoop, Nat.ne_of_gt hn, hd, hl, h, Code.loopNest]

theorem armRepm_pending (h : c.repm.isSome = true) : c.armRepm w n = c.raise 0x0A 0 w := by
  simp [Ctx.armRepm, Nat.ne_of_gt hn, h, Code.repmBusy]

end

section
variable (hc : s.cur = some c) (hg : c.guardOk g = true) (hf : c.fatal = none)
include hc hg hf

/-- A slot operation that comes down to raising a fault raises it. -/
theorem slot_raises {f : Ctx → Ctx} (he : exec i s = slotRun s g f) (h : f c = c.raise code sl x) :
    SequenceRaises s c i code :=
  .of_raise hf (by rw [he, slotRun_ok hc hg, h])

/-- A CALL whose transfer faults leaves b7 as it is. -/
theorem call_raises {bt : BitVec 3} (h : c.transfer (wordOf (.call g bt)) (c.rb bt) true = c.raise code sl x) :
    SequenceRaises s c (.call g bt) code :=
  slot_raises hc hg hf (sl := sl) (x := x) rfl (by simp [h])

theorem tret_raises_inDelay {sv : BitVec 6} (h : c.inDelay = true) : SequenceRaises s c (.tret g sv) 0x06 :=
  slot_raises hc hg hf rfl (if_pos h)

theorem tret_raises_outside {sv : BitVec 6} (hd : c.inDelay = false) (h : c.indet = false) :
    SequenceRaises s c (.tret g sv) 0x02 :=
  slot_raises hc hg hf rfl ((if_neg (by simp [hd])).trans (if_neg (by simp [h])))

end

/-! ### M instructions at issue (R225) -/

/-- An M instruction issues through the checks of its slot. -/
def MIssues (g : Guard) (i : Instr) : Prop := ∀ s, exec i s = onCur s fun c => c.mIssue g i

section
variable {f : Nat × Nat}

/-- What the state ahead finds is raised, but a fault of a table that a queued MOUT has still to write (R111). -/
theorem mIssueFault_of_mFault (hm : c.ahead.mFault i = some (code, x))
    (hw : code = Code.scaleTable → c.tableWaits i = false) :
    c.mIssueFault i = some (code, x) := by
  have waits : ¬ ((code = Code.scaleTable && c.tableWaitsIn c.ahead i) = true) := by
    simpa [Ctx.tableWaits] using hw
  simp only [Ctx.mIssueFault, Ctx.mFaultIn, hm, if_neg waits]

theorem mCheck_of_mIssueFault (hm : c.mIssueFault i = some f) (hh : c.hinges i f = false) : c.mCheck i = some f := by
  simp [Ctx.mCheck, hm, hh]

/-- A fault of the checks is raised whether or not a pending count governs the instruction. -/
theorem mIssue_of_mCheck (hg : c.guardOk g = true) (hm : c.mCheck i = some (code, x))
    (hr : c.repm = none ∨ mRepeats i = true) : c.mIssue g i = c.raise code 4 x := by
  unfold Ctx.mIssue
  cases hp : c.repm with
  | none => simp [hg, hm, Ctx.mOr]
  | some n =>
    have repeats : mRepeats i = true := hr.resolve_left (by simp [hp])
    simp [hg, hm, repeats, Ctx.mOr]

variable (hc : s.cur = some c) (hg : c.guardOk g = true) (hf : c.fatal = none) (hi : MIssues g i)
include hc hg hf hi

theorem MRaises.of_mFault (hm : c.ahead.mFault i = some (code, x))
    (hw : code = Code.scaleTable → c.tableWaits i = false) : MRaises s c i code x := by
  intro hh hr
  have check := mCheck_of_mIssueFault (mIssueFault_of_mFault hm hw) hh
  have raised := c.raise_raised code 4 x
  exact ⟨c.raise code 4 x, by rw [hi, onCur_eq hc, mIssue_of_mCheck hg check hr], raise_fatal hf, rfl, raised.ma, raised.ch,
    raised.tabA, raised.tabB, raise_sameStores, raised.mq⟩

/-- As MRaises.of_mFault, for every fault but that of a table. -/
theorem MRaises.of_mFault_ne (hm : c.ahead.mFault i = some (code, x)) (hn : code ≠ Code.scaleTable := by decide) :
    MRaises s c i code x :=
  .of_mFault hc hg hf hi hm fun h => absurd h hn

end

/-! ### What the checks of each M instruction find (Table 9.6) -/

section
variable {y : Ctx}

/-- More chunks are live than n where their elements fill more than n chunks (R122). -/
theorem lt_live_iff (d : Chain) (n : Nat) : n < d.live ↔ n * d.size < min (d.lo + 2 ^ d.lw) d.k - d.lo := by
  have size : 0 < d.size := Nat.two_pow_pos _
  rw [Chain.live, Nat.lt_iff_add_one_le, Nat.le_div_iff_mul_le size, Nat.succ_mul]
  omega

/-- MOPEN's parameters (R122, R223). -/
theorem mFault_mopen {ch cs : BitVec 3} {h d : BitVec 5} {mk : BitVec 4}
    (bad :
      let k := (y.rma mk).toNat
      let r := (y.rma (mk + 1)).toNat
      let w := 2 ^ (r / 2 ^ 27)
      let lo := r % 2 ^ 24
      let size := 2 ^ (cs.toNat + 4)
      k = 0 ∨ 2 ^ 24 < k ∨ 24 < r / 2 ^ 27 ∨ r / 2 ^ 24 % 8 ≠ 0 ∨ w < size ∨ lo % w ≠ 0 ∨ k ≤ lo ∨
        2 ^ d.toNat * size < min (lo + w) k - lo ∨ y.part.as ≤ h.toNat + d.toNat) :
    y.mFault (.mopen g ch h d cs mk) = some (0x22, wordOf (.mopen g ch h d cs mk)) := by
  have lw : bitsOf (y.rma (mk + 1)).toNat 27 5 = (y.rma (mk + 1)).toNat / 2 ^ 27 :=
    Nat.mod_eq_of_lt (Nat.div_lt_of_lt_mul (y.rma (mk + 1)).isLt)
  have lo : bitsOf (y.rma (mk + 1)).toNat 0 24 = (y.rma (mk + 1)).toNat % 2 ^ 24 := by rw [bitsOf, Nat.pow_zero, Nat.div_one]
  have reserved : bitsOf (y.rma (mk + 1)).toNat 24 3 = (y.rma (mk + 1)).toNat / 2 ^ 24 % 8 := rfl
  have refused : y.openChain h.toNat d.toNat cs.toNat mk = none := by
    refine if_pos ?_
    simp only [Bool.or_eq_true, decide_eq_true_eq, bne_iff_ne, lt_live_iff, Chain.size, lw, lo, reserved]
    simpa only [or_assoc] using bad
  simp only [Ctx.mFault, refused, Code.chainParam]

theorem mFault_mclose_state {ch : BitVec 3} (h : (y.rch ch).state ≠ .opened) :
    y.mFault (.mclose g ch) = some (0x25, ch.toNat) :=
  if_pos (by simpa using h)

theorem mFault_mclose_short {ch : BitVec 3} (h : (y.rch ch).state = .opened) (hm : (y.rch ch).m ≠ (y.rch ch).live) :
    y.mFault (.mclose g ch) = some (0x24, ch.toNat) :=
  (if_neg (by simp [h])).trans (if_pos (by simpa using hm))

theorem mFault_mclose_full {ch : BitVec 3} (h : (y.rch ch).state = .opened) (hm : (y.rch ch).m = (y.rch ch).live) :
    y.mFault (.mclose g ch) = y.planesFault (.mclose g ch) :=
  (if_neg (by simp [h])).trans (if_neg (by simp [hm]))

/-- The first plane outside the partition is the fault (assumption 92). -/
theorem planesFault_of_find {n : Nat}
    (h : (planesRead y i ++ planesWritten y i 1).find? (fun p => decide (y.part.as ≤ p)) = some n) :
    y.planesFault i = some (0x12, n) := by
  simp only [Ctx.planesFault, h, Option.map_some, Code.asRange]

/-- The condition of R126, on the descriptors of two registers. -/
theorem combines_iff (ch chb : BitVec 3) (l r : Chain) :
    combines l r (ch == chb) = true ↔
      ch ≠ chb ∧ l.state = .closed ∧ r.state = .closed ∧ l.k = r.k ∧ l.kind = r.kind ∧ l.lo % (2 * 2 ^ l.lw) = 0 ∧
        r.lo = l.lo + 2 ^ l.lw ∧ (r.lw = l.lw ∨ (r.lw < l.lw ∧ l.k ≤ r.lo + 2 ^ r.lw)) := by
  have eq : 2 ^ r.lw = 2 ^ l.lw ↔ r.lw = l.lw := Nat.pow_right_inj (Nat.le_refl 2)
  have lt : 2 ^ r.lw < 2 ^ l.lw ↔ r.lw < l.lw := Nat.pow_lt_pow_iff_right (by decide)
  simp only [combines, Bool.and_eq_true, Bool.or_eq_true, Bool.not_eq_true', beq_eq_false_iff_ne, beq_iff_eq,
    decide_eq_true_eq, eq, lt, and_assoc]

theorem mFault_mcomb_apart {ch chb : BitVec 3} (h : combines (y.rch ch) (y.rch chb) (ch == chb) = false) :
    y.mFault (.mcomb g ch chb) = some (0x26, ch.toNat + chb.toNat * 8) :=
  if_neg (by simp [h])

theorem mFault_mcomb_joined {ch chb : BitVec 3} (h : combines (y.rch ch) (y.rch chb) (ch == chb) = true) :
    y.mFault (.mcomb g ch chb) = y.planesFault (.mcomb g ch chb) :=
  if_pos h

/-- MOUT and MLDA: a plane outside the partition (R232, R233). -/
theorem panelFault_plane {pl : BitVec 5} {mx : BitVec 4} {t : FpTy} (h : y.part.as ≤ pl.toNat) :
    y.panelFault pl mx t = some (0x12, pl.toNat) :=
  if_pos h

theorem rowsOut_one {row n : Nat} (hn : 0 < n) (h : 128 * y.part.ts < row + n) :
    y.rowsOut [(row, n)] = some (max row (128 * y.part.ts)) := by
  simp [Ctx.rowsOut, hn, Nat.mul_comm y.part.ts 128, h]

/-- MOUT and MLDA: a panel that leaves TS (R232, R233). -/
theorem panelFault_rows {pl : BitVec 5} {mx : BitVec 4} {t : FpTy} (hp : pl.toNat < y.part.as)
    (h : 128 * y.part.ts < maRow (y.rma mx) + 8 * t.width) :
    y.panelFault pl mx t = some (0x11, max (maRow (y.rma mx)) (128 * y.part.ts)) := by
  have rows : 0 < outRows t := by cases t <;> decide
  simp only [Ctx.panelFault, if_neg (Nat.not_le.mpr hp), rowsOut_one rows h, Code.tsRange]

/-- MSCALE: a table that leaves TS (R222). -/
theorem mFault_mscale_range {tab : Bool} {mx : BitVec 4}
    (h : 256 * (128 * y.part.ts) < 256 * maRow (y.rma mx) + 32 * maSeg (y.rma mx) + 64) :
    y.mFault (.mscale g tab mx) = some (0x11, max (maRow (y.rma mx)) (128 * y.part.ts)) := by
  have out : y.tsSize < 256 * maRow (y.rma mx) + 32 * maSeg (y.rma mx) + 64 := by
    rw [Ctx.tsSize]
    omega
  simp only [Ctx.mFault, if_pos out, Nat.mul_comm y.part.ts 128, Code.tsRange]

/-- MSCALE: the first entry that is not positive and finite, where no entry is poisoned (R111). -/
theorem mFault_mscale_entry {tab : Bool} {mx : BitVec 4} {e : Nat}
    (inTs : 256 * maRow (y.rma mx) + 32 * maSeg (y.rma mx) + 64 ≤ 256 * (128 * y.part.ts)) (he : e < 16)
    (clean : y.poisonTs = [])
    (bad : posFin (y.ts.num (256 * maRow (y.rma mx) + 32 * maSeg (y.rma mx) + 4 * e) 4) = false)
    (good : ∀ j, j < e → posFin (y.ts.num (256 * maRow (y.rma mx) + 32 * maSeg (y.rma mx) + 4 * j) 4) = true) :
    y.mFault (.mscale g tab mx) = some (0x20, e) := by
  have out : ¬ y.tsSize < 256 * maRow (y.rma mx) + 32 * maSeg (y.rma mx) + 64 := by
    rw [Ctx.tsSize]
    omega
  have entry : ∀ j, j < 16 → (y.scaleTable mx).getD j 0 =
      y.ts.num (256 * maRow (y.rma mx) + 32 * maSeg (y.rma mx) + 4 * j) 4 := by
    intro j hj
    simp [Ctx.scaleTable, tabulate, hj]
  have first : (List.range 16).find? (fun j => !posFin ((y.scaleTable mx).getD j 0) &&
      !poisonHit y.poisonTs 8 (256 * maRow (y.rma mx) + 32 * maSeg (y.rma mx) + 4 * j) 4) = some e := by
    rw [List.find?_range_eq_some]
    refine ⟨?_, List.mem_range.mpr he, fun j hj => ?_⟩
    · rw [entry e he, bad, clean]
      rfl
    · rw [entry j (Nat.lt_trans hj he), good j hj]
      rfl
  simp only [Ctx.mFault, if_neg out, first, Code.scaleTable]

end

/-! ### MMA and MMAG (R224, R230) -/

/-- The chain may take a product of this type. -/
def Opened (q : Chain) (t : MatTy) : Prop := q.state = .opened ∧ (q.kset = true → q.kind = mtInt t)

/-- Both operands of a scaled type have scales for n blocks (R111). -/
def EnoughScales (y : Ctx) (t : MatTy) (ms mt : BitVec 4) (n : Nat) : Prop :=
  mtScaled t = true → n ≤ maScnt (y.rma ms) ∧ n ≤ maScnt (y.rma mt)

theorem opened_iff (q : Chain) (t : MatTy) :
    Opened q t ↔ ¬ (q.state != .opened || (q.kset && q.kind != mtInt t)) = true := by
  simp [Opened]

theorem enoughScales_iff (y : Ctx) (t : MatTy) (ms mt : BitVec 4) (n : Nat) :
    EnoughScales y t ms mt n ↔
      ¬ (mtScaled t && (decide (maScnt (y.rma ms) < n) || decide (maScnt (y.rma mt) < n))) = true := by
  simp [EnoughScales]

section
variable {y : Ctx} {w n : Nat} {mmag : Bool} {t : MatTy} {ch : BitVec 3} {mx my ms mt : BitVec 4}

theorem mmaFault_state (h : ¬ Opened (y.rch ch) t) : y.mmaFault w mmag t ch mx my ms mt = some (0x25, ch.toNat) :=
  if_pos (Classical.not_not.mp fun k => h ((opened_iff _ _).mpr k))

variable (opened : Opened (y.rch ch) t)
include opened

theorem mmaFault_full (h : (y.rch ch).m = (y.rch ch).live) : y.mmaFault w mmag t ch mx my ms mt = some (0x23, ch.toNat) :=
  (if_neg ((opened_iff _ _).mp opened)).trans (if_pos (Nat.le_of_eq h.symm))

variable (room : (y.rch ch).m < (y.rch ch).live)
include room

theorem mmaFault_rows (h : y.rowsOut (y.mmaRows mmag t ch mx my ms mt) = some n) :
    y.mmaFault w mmag t ch mx my ms mt = some (0x11, n) := by
  simp only [Ctx.mmaFault, if_neg ((opened_iff _ _).mp opened), if_neg (Nat.not_le.mpr room), h, Code.tsRange]

variable (inTs : y.rowsOut (y.mmaRows mmag t ch mx my ms mt) = none)
include inTs

theorem mmaFault_planes (h : y.part.as ≤ (y.rch ch).h + (y.rch ch).d) :
    y.mmaFault w mmag t ch mx my ms mt = some (0x12, (y.rch ch).h + (y.rch ch).d) := by
  simp only [Ctx.mmaFault, if_neg ((opened_iff _ _).mp opened), if_neg (Nat.not_le.mpr room), inTs, if_pos h,
    Code.asRange]

variable (inAs : (y.rch ch).h + (y.rch ch).d < y.part.as)
include inAs

/-- With the chain, its planes and the panels in order, the scales are checked, and then what MMAG asks besides. -/
theorem mmaFault_operands :
    y.mmaFault w mmag t ch mx my ms mt =
      let nb := ((y.rch ch).present + 15) / 16
      if mtScaled t && (decide (maScnt (y.rma ms) < nb) || decide (maScnt (y.rma mt) < nb)) then some (0x21, nb)
      else if mmag && y.info.shape != 1 then some (0x27, w)
      else if mmag && decide ((y.rch ch).size * mtWidth t / 16 < 8) then some (0x22, w)
      else none := by
  simp only [Ctx.mmaFault, if_neg ((opened_iff _ _).mp opened), if_neg (Nat.not_le.mpr room), inTs,
    if_neg (Nat.not_le.mpr inAs), Code.scaleShort, Code.mmagTract, Code.chainParam]

theorem mmaFault_scales (h : ¬ EnoughScales y t ms mt (((y.rch ch).present + 15) / 16)) :
    y.mmaFault w mmag t ch mx my ms mt = some (0x21, ((y.rch ch).present + 15) / 16) :=
  (mmaFault_operands opened room inTs inAs).trans (if_pos (by simpa only [enoughScales_iff, Classical.not_not] using h))

variable (enough : EnoughScales y t ms mt (((y.rch ch).present + 15) / 16)) (gathers : mmag = true)
include enough gathers

theorem mmaFault_tract (h : y.info.shape ≠ 1) : y.mmaFault w mmag t ch mx my ms mt = some (0x27, w) := by
  rw [mmaFault_operands opened room inTs inAs]
  exact (if_neg ((enoughScales_iff _ _ _ _ _).mp enough)).trans (if_pos (by simp [gathers, h]))

theorem mmaFault_narrow (hs : y.info.shape = 1) (h : (y.rch ch).size * mtWidth t < 128) :
    y.mmaFault w mmag t ch mx my ms mt = some (0x22, w) := by
  have narrow : (y.rch ch).size * mtWidth t / 16 < 8 := Nat.div_lt_of_lt_mul h
  rw [mmaFault_operands opened room inTs inAs]
  exact ((if_neg ((enoughScales_iff _ _ _ _ _).mp enough)).trans (if_neg (by simp [hs]))).trans
    (if_pos (by simp [gathers, narrow]))

end

/-! ### The obligation -/

/-- The instruction of a product: an MMAG or an MMA. -/
def product (mmag : Bool) (g : Guard) (t : MatTy) (ch : BitVec 3) (mx my ms mt : BitVec 4) : Instr :=
  if mmag = true then .mmag g t ch mx my ms mt else .mma g t ch mx my ms mt

theorem product_mIssues (mmag : Bool) (t : MatTy) (ch : BitVec 3) (mx my ms mt : BitVec 4) :
    MIssues g (product mmag g t ch mx my ms mt) := by
  cases mmag <;> exact fun _ => rfl

theorem mFault_product (y : Ctx) (mmag : Bool) (t : MatTy) (ch : BitVec 3) (mx my ms mt : BitVec 4) :
    y.mFault (product mmag g t ch mx my ms mt) =
      y.mmaFault (wordOf (product mmag g t ch mx my ms mt)) mmag t ch mx my ms mt := by
  cases mmag <;> rfl

/-- The faults of an MMA or MMAG, each where those before it in Table 9.6 are not met. -/
theorem product_raises (hc : s.cur = some c) (hg : c.guardOk g = true) (hf : c.fatal = none) (mmag : Bool) (t : MatTy)
    (ch : BitVec 3) (mx my ms mt : BitVec 4) :
    let y := c.ahead
    let i := product mmag g t ch mx my ms mt
    let q := y.rch ch
    let scales := (q.present + 15) / 16
    let inTs := y.rowsOut (y.mmaRows mmag t ch mx my ms mt)
    (¬ Opened q t → MRaises s c i 0x25 ch.toNat) ∧
    (Opened q t → q.m = q.live → MRaises s c i 0x23 ch.toNat) ∧
    (Opened q t → q.m < q.live →
      (∀ n, inTs = some n → MRaises s c i 0x11 n) ∧
      (inTs = none → y.part.as ≤ q.h + q.d → MRaises s c i 0x12 (q.h + q.d)) ∧
      (inTs = none → q.h + q.d < y.part.as →
        (¬ EnoughScales y t ms mt scales → MRaises s c i 0x21 scales) ∧
        (EnoughScales y t ms mt scales → mmag = true → y.info.shape ≠ 1 → MRaises s c i 0x27 (wordOf i)) ∧
        (EnoughScales y t ms mt scales → mmag = true → y.info.shape = 1 → q.size * mtWidth t < 128 →
          MRaises s c i 0x22 (wordOf i)))) := by
  intro y i q scales inTs
  have raises {code x : Nat} (h : y.mmaFault (wordOf i) mmag t ch mx my ms mt = some (code, x))
      (hn : code ≠ Code.scaleTable := by decide) : MRaises s c i code x :=
    .of_mFault_ne hc hg hf (product_mIssues mmag t ch mx my ms mt) ((mFault_product y mmag t ch mx my ms mt).trans h) hn
  refine ⟨fun h => raises (mmaFault_state h), fun opened h => raises (mmaFault_full opened h), fun opened room =>
    ⟨fun n h => raises (mmaFault_rows opened room h), fun rows h => raises (mmaFault_planes opened room rows h),
      fun rows planes => ⟨fun h => raises (mmaFault_scales opened room rows planes h), fun enough gathers h => ?_,
        fun enough gathers hs h => ?_⟩⟩⟩
  · exact raises (mmaFault_tract opened room rows planes enough gathers h)
  · exact raises (mmaFault_narrow opened room rows planes enough gathers hs h)

/-- Settles O26: each clause's hypotheses make its fault the first of the instruction's checks, and raising a fault records the
report and leaves all but the registers that results in flight land in. -/
theorem instructionFaults : Obligations.InstructionFaults := by
  refine ⟨?copy, ?sequence, ?remote, ?matrix⟩
  case copy =>
    intro s c g ad src ac hc hg hf ctl faults
    have cpy := cpy_raisesFirst hc hg ad src ac
    exact ⟨cpy.reserved hf, cpy.semRange hf, fun clean sem lm h =>
      (cpy.past_control ⟨clean, sem⟩).opRaises hf (firstFault_global lm h)⟩
  case sequence =>
    intro s c g bt len cnt k hc hg hf hn hk faults
    have raises {i : Instr} {f : Ctx → Ctx} {code x : Nat} := @slot_raises s c g i code 0 x hc hg hf f
    exact ⟨fun hd => ⟨raises rfl (transfer_inDelay hd), call_raises hc hg hf (transfer_inDelay hd),
        raises rfl (transfer_inDelay hd), raises rfl (armLoop_inDelay hn hd), tret_raises_inDelay hc hg hf hd⟩,
      fun hd h => call_raises hc hg hf (transfer_inLoop hd h), fun hd h => raises rfl (transfer_misaligned hd h),
      fun hd h => raises rfl (armLoop_tooDeep hn hd h), fun hd ⟨l, hl, h⟩ => raises rfl (armLoop_beyond hn hd hl h),
      fun h => raises rfl (armRepm_pending hk h), tret_raises_outside hc hg hf⟩
  case remote =>
    intro s c g ad src ac ax sv inc sc rel t op ord hc hg hf ctl dst from_ faults control ok ret
    have rst := rst_raisesFirst hc hg ad src ac
    have rsts := rsts_raisesFirst hc hg ad sv ac
    have rcpy := rcpy_raisesFirst hc hg ad src ac
    have rget := rget_raisesFirst hc hg ad src ac
    have mcast := mcast_raisesFirst hc hg ad src ac ax
    have ratom := ratom_raisesFirst hc hg t op ad ac sv ord
    exact ⟨rst.control hf, rsts.control hf, rcpy.control hf, rget.control hf, mcast.control hf, ratom.control hf,
      fun ok h => ⟨(rst.past_control ok).opRaises hf (firstFault_reserved (firstFault_peer h)),
        (rsts.past_control ok).opRaises hf (firstFault_reserved (firstFault_peer h))⟩,
      fun ok h => (rsts.past_control ok).opRaises hf (firstFault_storeLen h),
      fun ok len clean h => (rsts.past_control ok).opRaises hf
        ((firstFault_past_storeLen len).trans ((firstFault_past_peer clean).trans (firstFault_offset h))),
      fun ok lm h => (rcpy.past_control ok).opRaises hf (firstFault_place_peer lm h),
      fun ok lm h => (rcpy.past_control ok).opRaises hf (firstFault_place_global lm h),
      fun ok place lm h => (rcpy.past_control ok).opRaises hf ((firstFault_past_place place).trans (firstFault_global lm h)),
      fun ok h => (rget.past_control ok).opRaises hf (firstFault_reserved (firstFault_peer h)),
      fun h => (rsig_raisesFirst hc hg ad inc sc rel).opRaises hf (firstFault_peer h),
      fun ok h => (mcast.past_control ok).opRaises hf (firstFault_reserved (firstFault_list h)),
      fun ok h => (ratom.past_control ok).opRaises hf (firstFault_peer h),
      fun ok clean h => (ratom.past_control ok).opRaises hf ((firstFault_past_peer clean).trans (firstFault_offset h))⟩
  case matrix =>
    intro s c g hc hg hf y faults ch chb h d pl cs mk mx my ms mt t ty rm tab k r w lo size row top open_
    have raises {i : Instr} {code x : Nat} := @MRaises.of_mFault_ne s c g i code x hc hg hf
    refine ⟨fun bad => raises (fun _ => rfl) (mFault_mopen bad), fun h => raises (fun _ => rfl) (mFault_mclose_state h),
      fun opened h => raises (fun _ => rfl) (mFault_mclose_short opened h), ?planes,
      fun h => ⟨raises (fun _ => rfl) (panelFault_plane h), raises (fun _ => rfl) (panelFault_plane h)⟩,
      fun hp h => ⟨raises (fun _ => rfl) (panelFault_rows hp h), raises (fun _ => rfl) (panelFault_rows hp h)⟩,
      ⟨fun h => raises (fun _ => rfl) (mFault_mscale_range h), fun e inTs he clean bad good waits =>
        MRaises.of_mFault hc hg hf (fun _ => rfl) (mFault_mscale_entry inTs he clean bad good) fun _ => waits⟩,
      fun mmag => product_raises hc hg hf mmag ty ch mx my ms mt⟩
    case planes =>
      intro joins outside
      have joined : combines (y.rch ch) (y.rch chb) (ch == chb) = true ↔ joins := combines_iff _ _ _ _
      exact ⟨fun h => raises (fun _ => rfl) (mFault_mcomb_apart (Bool.eq_false_iff.mpr fun j => h (joined.mp j))),
        fun h n out => raises (fun _ => rfl) ((mFault_mcomb_joined (joined.mpr h)).trans (planesFault_of_find out)),
        fun opened full n out => raises (fun _ => rfl) ((mFault_mclose_full opened full).trans (planesFault_of_find out))⟩

end Sys2Proof.Machine.IssueFaults
end
